-- ==== Sys2Proof/Word.lean ====
section
/-! DEFINITION. The word types of the AES-128 ECB core (spec/00_scope.md R9 to R12): bytes, 32-bit bus
words, 16-bit bus addresses, and the three fixed-length byte arrays of the datapath. -/

namespace Sys2Proof

/-- A byte: an unsigned 8-bit value, bit 0 least significant (R9). -/
abbrev Byte := BitVec 8

/-- A 32-bit host bus word (R60, DATA_W of R8). -/
abbrev Word := BitVec 32

/-- A 16-bit byte address on the host bus (R60, ADDR_W of R8). -/
abbrev Addr := BitVec 16

/-- Sixteen bytes `b[0..15]`: a key, a block, or the cipher State (R22, R23, R72). -/
abbrev Block := Vector Byte 16

/-- One 4-byte word of the key schedule, byte 0 the spec's "first byte" (R18). -/
abbrev SWord := Vector Byte 4

/-- The expanded key schedule, 176 bytes (R24). -/
abbrev Schedule := Vector Byte 176

end Sys2Proof
end

