-- ==== Sys2Proof/Config.lean ====
section
/-! DEFINITION. What one implementation fixes (spec/00_scope.md R8) and the free values the spec leaves open
(R13 `draw`; spec/93_implementation_defined.md U1, U2). -/

namespace Sys2Proof

/-- The parameters of an implementation (R8). BUF_SIZE is the only one a transaction-level model can see: it is a
multiple of 16 from 16 to 61440, so BUF has 1 to 3840 blocks, and the index of the last block is a `Fin 3840`. -/
structure Config where
  lastBlock : Fin 3840
  deriving DecidableEq, Repr

/-- BUF_SIZE in bytes (R8, R32). -/
def Config.bufSize (c : Config) : Nat := 16 * (c.lastBlock.val + 1)

/-- BUF_SIZE = 4096, the value "in every example of this spec" (R8). -/
def Config.example4096 : Config := { lastBlock := 255 }

/-- A free value: what the `n`-th read of a pending command's destination set returns. "any 32-bit value, possibly
different on each read" (R261, U1). -/
opaque Config.busyDraw : Nat → Word

/-- A free value: BUF byte `i` after the `n`-th RESET, until it is written. "each byte is a draw, independent of the
others and of its value before reset" (R251, R40, U2, U3). -/
opaque Config.bufDraw : Nat → Nat → Byte

end Sys2Proof
end

