-- ==== Sys2Proof/Machine/State.lean ====
section
/-! DEFINITION. The machine's state as plain data: every piece of state spec/10_state.md R20 names, and beside it
the two other agents' inputs (the HOST's remaining program and the order in which agents step), the bus's
responses, and the counters that number free values. -/

namespace Sys2Proof.Machine

/-- The contents of BUF that have been written since reset: pairs of a byte index and a byte, indexes strictly
rising (R40). An index that is not listed has not been written since reset and reads as its draw (R251, U3). -/
abbrev Memory := List Host.Cell

/-- The response of a bus transaction (R61). -/
inductive Resp where
  | okay
  | error
  deriving DecidableEq, Repr

/-- What a transaction returns to the HOST: "A read returns a pair `(rdata, resp)` ... A write returns resp alone" (R61).
A read is recorded with the name its `rdata` is bound to (R100). -/
inductive Reply where
  | read (name : String) (rdata : Word) (resp : Resp)
  | write (resp : Resp)
  deriving DecidableEq, Repr

/-- One line of a host program (R100, R101). -/
inductive HostOp where
  /-- `WR addr, value`: one bus write. -/
  | wr (addr : Addr) (value : Word)
  /-- `RD addr -> name`: one bus read, its `rdata` bound to `name`. -/
  | rd (addr : Addr) (name : String)
  /-- `POLL addr, mask, value`: read until `(rdata & mask) = value`, one read a step. -/
  | poll (addr : Addr) (mask value : Word)
  deriving DecidableEq, Repr

/-- The HOST's names with the words bound to them, no name twice, in the order they were first bound (R100). -/
abbrev Bindings := List (String × Word)

/-- Which agent takes a step, or that the RESET event occurs (R15, R77). -/
inductive Turn where
  | host
  | engine
  | reset
  deriving DecidableEq, Repr

/-- The state of the core and of the inputs around it. -/
structure State where
  /-- The parameters, fixed for the machine; PARAM reads BUF_SIZE (R8, R32). -/
  cfg : Config
  /-- KEY, `key[0..15]` (R22). -/
  key : Block
  /-- STATE, `st[0..15]` (R23). -/
  st : Block
  /-- SCHED, `sched[0..175]` (R24). -/
  sched : Schedule
  /-- SKV, schedule key valid (R25). -/
  skv : Bool
  /-- GF_A, GFOP[7:0] (R26). -/
  gfA : Byte
  /-- GF_B, GFOP[15:8] (R26). -/
  gfB : Byte
  /-- GF_P, GFRES[7:0] (R27). -/
  gfP : Byte
  /-- LEN (R28). -/
  len : Word
  /-- OUTLEN (R29). -/
  outlen : Word
  /-- CMD, the last accepted command word (R30). -/
  cmd : Word
  /-- STATUS.BUSY (R34). -/
  busy : Bool
  /-- STATUS.DONE (R35). -/
  done : Bool
  /-- STATUS.ERR (R36). -/
  err : Bool
  /-- STATUS.VIOL (R38). -/
  viol : Bool
  /-- ERRCODE[7:0] (R39). -/
  errcode : Byte
  /-- PEND, the pending command word or none (R42). -/
  pend : Option Word
  /-- BUF, as the bytes written since reset (R40). -/
  buf : Memory
  /-- The model's own: how many RESET events have occurred, which numbers the draws of BUF (R251). -/
  bufEpoch : Nat
  /-- The model's own: how many busy reads have drawn a value (R261). -/
  draws : Nat
  /-- The HOST's remaining program (R100): an input. -/
  host : List HostOp
  /-- The order in which the agents step next (R77): an input. When it is empty the ENGINE steps if it is enabled,
  else the HOST. -/
  turns : List Turn
  /-- The names the HOST has bound (R100). -/
  bound : Bindings
  /-- The responses the HOST has recorded, the latest first (R100). -/
  replies : List Reply
  deriving DecidableEq, Repr

/-- Why a step stops with a fault. There is no reason: "every command completes, and every bus access gets a defined
response" (spec/93_implementation_defined.md), and "The core has no traps" (R13). Nobody raises one, which is safe. -/
inductive Fault where
  deriving DecidableEq, Repr

/-- Why a step is refused. -/
inductive Refusal where
  /-- Raised by an arm of exec for an instruction that has no meaning yet (no arm is in that case). Safe. -/
  | notModelled (mnemonic : String)
  deriving DecidableEq, Repr

/-- The state after RESET (R251), with BUF_SIZE = 4096 (R8), no host program and no order of turns given. -/
def State.reset : State where
  cfg := Config.example4096
  key := Vector.replicate 16 0x00#8
  st := Vector.replicate 16 0x00#8
  sched := Vector.replicate 176 0x00#8
  skv := false
  gfA := 0x00#8
  gfB := 0x00#8
  gfP := 0x00#8
  len := 0x00000000#32
  outlen := 0x00000000#32
  cmd := 0x00000000#32
  busy := false
  done := false
  err := false
  viol := false
  errcode := 0x00#8
  pend := none
  buf := []
  bufEpoch := 0
  draws := 0
  host := []
  turns := []
  bound := []
  replies := []

end Sys2Proof.Machine
end

