-- ==== Sys2Proof/Machine/Flags.lean ====
section
/-! DEFINITION. STATUS and ERRCODE: the STATUS word, its write-one-to-clear bits, and the error codes
(spec/10_state.md R33 to R39, spec/60_exceptions.md R220). -/

namespace Sys2Proof.Machine

/-- One bit as a number. -/
def bitOf (b : Bool) : BitVec 1 := if b then 1#1 else 0#1

/-- `zext_32({VIOL, SKV, ERR, DONE, BUSY})` (R70, R33). -/
def statusWord (s : State) : Word :=
  (bitOf s.viol ++ bitOf s.skv ++ bitOf s.err ++ bitOf s.done ++ bitOf s.busy : BitVec 5).setWidth 32

/-- A write of STATUS: bit 1 clears DONE and bit 4 clears VIOL, every other bit is ignored (R33, R71). -/
def writeStatus (s : State) (v : Word) : State :=
  { s with
    done := if v.getLsbD 1 then false else s.done
    viol := if v.getLsbD 4 then false else s.viol }

/-- The errors a command can raise (R220). -/
inductive ErrorCode where
  | invalidLength
  | invalidPadding
  | illegalCommand
  | badRound
  | noSchedule
  | bufferOverflow
  deriving DecidableEq, Repr

/-- `code(E)`, the first column of R220; 0 is NONE and 7..255 are "never produced". -/
def errorCode : ErrorCode → Byte
  | .invalidLength => 1#8
  | .invalidPadding => 2#8
  | .illegalCommand => 3#8
  | .badRound => 4#8
  | .noSchedule => 5#8
  | .bufferOverflow => 6#8

end Sys2Proof.Machine
end

