-- ==== Sys2Proof/Syntax.lean ====
section
/-! DEFINITION. The 13 commands of the core, one constructor per row of spec/opcode_table.json
(spec/30_encoding.md R92). A command is the core's instruction (R17). -/

namespace Sys2Proof

/-- A command of the core. Every operand but ADDROUNDKEY's round index is a fixed register (R91, R97). -/
inductive Instr where
  /-- KEYEXP, opcode 0x01 (R131). -/
  | keyexp
  /-- GFMUL, opcode 0x02 (R120). -/
  | gfmul
  /-- SUBBYTES, opcode 0x03 (R142). -/
  | subbytes
  /-- INVSUBBYTES, opcode 0x04 (R144). -/
  | invsubbytes
  /-- SHIFTROWS, opcode 0x05 (R146). -/
  | shiftrows
  /-- INVSHIFTROWS, opcode 0x06 (R148). -/
  | invshiftrows
  /-- MIXCOLUMNS, opcode 0x07 (R150). -/
  | mixcolumns
  /-- INVMIXCOLUMNS, opcode 0x08 (R152). -/
  | invmixcolumns
  /-- ADDROUNDKEY r, opcode 0x09, with the round index of field RND (R91, R154). -/
  | addroundkey (rnd : Nat)
  /-- ENCBLOCK, opcode 0x0A (R175). -/
  | encblock
  /-- DECBLOCK, opcode 0x0B (R176). -/
  | decblock
  /-- ECBENC, opcode 0x0C (R195). -/
  | ecbenc
  /-- ECBDEC, opcode 0x0D (R198). -/
  | ecbdec
  deriving DecidableEq, Repr

end Sys2Proof
end

