-- ==== Sys2Proof/WellFormed.lean ====
section
/-! DEFINITION. Which commands an encoding exists for: what the spec's assembler accepts
(spec/30_encoding.md R99). -/

namespace Sys2Proof

/-- "An assembler refuses r > 15. It accepts r in 11..15, because those encode legally" (R99, R96). No other
command has an operand to check. -/
def Instr.wellFormed : Instr → Bool
  | .keyexp => true
  | .gfmul => true
  | .subbytes => true
  | .invsubbytes => true
  | .shiftrows => true
  | .invshiftrows => true
  | .mixcolumns => true
  | .invmixcolumns => true
  | .addroundkey rnd => decide (rnd ≤ 15)
  | .encblock => true
  | .decblock => true
  | .ecbenc => true
  | .ecbdec => true

end Sys2Proof
end

