-- ==== Sys2Proof/Decode.lean ====
section
/-! DEFINITION. Command words: the fields of format CMD, the opcode table, the decoder (total on every word and
every byte list, rejecting by name) and the encoder (spec/30_encoding.md R90 to R99). -/

namespace Sys2Proof

/-- Field OPC, bits [7:0] (R90). -/
def opcField (w : Word) : Nat := (w.extractLsb' 0 8).toNat

/-- Field RND, bits [11:8], "the unsigned 4-bit value" (R90, R91). -/
def rndField (w : Word) : Nat := (w.extractLsb' 8 4).toNat

/-- Field RSV, bits [31:12] (R90). -/
def rsvField (w : Word) : Nat := (w.extractLsb' 12 20).toNat

/-- Why the decoder refuses. The first three are the ILLEGAL words of R95; the last is a byte list too short to hold
a command word, which the bus cannot produce (every transaction is 32 bits, R62). -/
inductive Illegal where
  /-- RSV is not 0. -/
  | reservedBits
  /-- RND is not 0 on a command other than ADDROUNDKEY. -/
  | unexpectedRound
  /-- OPC is 0x00 or in 0x0E..0xFF. -/
  | badOpcode
  /-- Fewer than four bytes. -/
  | truncated
  deriving DecidableEq, Repr

/-- The command of an opcode other than ADDROUNDKEY's (the rows of R92). -/
def decodeOpcode (opc : Nat) : Except Illegal Instr :=
  match opc with
  | 0x01 => .ok .keyexp
  | 0x02 => .ok .gfmul
  | 0x03 => .ok .subbytes
  | 0x04 => .ok .invsubbytes
  | 0x05 => .ok .shiftrows
  | 0x06 => .ok .invshiftrows
  | 0x07 => .ok .mixcolumns
  | 0x08 => .ok .invmixcolumns
  | 0x0A => .ok .encblock
  | 0x0B => .ok .decblock
  | 0x0C => .ok .ecbenc
  | 0x0D => .ok .ecbdec
  | _ => .error .badOpcode

/-- `decode(w)` of R93, with ILLEGAL split by its cause. -/
def decodeWord (w : Word) : Except Illegal Instr :=
  if rsvField w ≠ 0 then .error .reservedBits
  else if opcField w = 0x09 then .ok (.addroundkey (rndField w))
  else if rndField w ≠ 0 then .error .unexpectedRound
  else decodeOpcode (opcField w)

/-- A command word in the bytes of the bus, byte 0 in bits [7:0] (R64), and the bytes after it. -/
def decodeBytes : List Byte → Except Illegal (Instr × List Byte)
  | b0 :: b1 :: b2 :: b3 :: rest =>
    (decodeWord (b3 ++ b2 ++ b1 ++ b0)).map fun i => (i, rest)
  | _ => .error .truncated

/-- The decoder on a table row's word, numbered as spec/opcode_table.json numbers it; bits at and above `nbits` are 0. -/
def decodeTableWord (nbits w : Nat) : Option Instr :=
  (decodeWord (BitVec.ofNat 32 (w % 2 ^ nbits))).toOption

/-- The word a command assembles to: `0x00000009 | (r << 8)` for ADDROUNDKEY r, the row's match value for every
other command (R99, R92). -/
def encode : Instr → Word
  | .keyexp => 0x00000001#32
  | .gfmul => 0x00000002#32
  | .subbytes => 0x00000003#32
  | .invsubbytes => 0x00000004#32
  | .shiftrows => 0x00000005#32
  | .invshiftrows => 0x00000006#32
  | .mixcolumns => 0x00000007#32
  | .invmixcolumns => 0x00000008#32
  | .addroundkey rnd => 0x00000009#32 ||| (BitVec.ofNat 32 rnd <<< 8)
  | .encblock => 0x0000000A#32
  | .decblock => 0x0000000B#32
  | .ecbenc => 0x0000000C#32
  | .ecbdec => 0x0000000D#32

/-- The bytes of a command's word in bus order (R64). -/
def encodeBytes (i : Instr) : List Byte :=
  [(encode i).extractLsb' 0 8, (encode i).extractLsb' 8 8, (encode i).extractLsb' 16 8, (encode i).extractLsb' 24 8]

/-- A row of the opcode map (R92): "A word w encodes a row when `(w & mask) == match`". -/
structure OpcodeRow where
  mnemonic : String
  pattern : Word
  mask : Word
  deriving DecidableEq, Repr

/-- Whether a word encodes a row (R92). -/
def OpcodeRow.covers (r : OpcodeRow) (w : Word) : Bool := (w &&& r.mask) == r.pattern

/-- The opcode map of R92. -/
def opcodeTable : List OpcodeRow := [
  ⟨"KEYEXP", 0x00000001#32, 0xFFFFFFFF#32⟩,
  ⟨"GFMUL", 0x00000002#32, 0xFFFFFFFF#32⟩,
  ⟨"SUBBYTES", 0x00000003#32, 0xFFFFFFFF#32⟩,
  ⟨"INVSUBBYTES", 0x00000004#32, 0xFFFFFFFF#32⟩,
  ⟨"SHIFTROWS", 0x00000005#32, 0xFFFFFFFF#32⟩,
  ⟨"INVSHIFTROWS", 0x00000006#32, 0xFFFFFFFF#32⟩,
  ⟨"MIXCOLUMNS", 0x00000007#32, 0xFFFFFFFF#32⟩,
  ⟨"INVMIXCOLUMNS", 0x00000008#32, 0xFFFFFFFF#32⟩,
  ⟨"ADDROUNDKEY", 0x00000009#32, 0xFFFFF0FF#32⟩,
  ⟨"ENCBLOCK", 0x0000000A#32, 0xFFFFFFFF#32⟩,
  ⟨"DECBLOCK", 0x0000000B#32, 0xFFFFFFFF#32⟩,
  ⟨"ECBENC", 0x0000000C#32, 0xFFFFFFFF#32⟩,
  ⟨"ECBDEC", 0x0000000D#32, 0xFFFFFFFF#32⟩]

/-- A command's mnemonic (R99). -/
def Instr.mnemonic : Instr → String
  | .keyexp => "KEYEXP"
  | .gfmul => "GFMUL"
  | .subbytes => "SUBBYTES"
  | .invsubbytes => "INVSUBBYTES"
  | .shiftrows => "SHIFTROWS"
  | .invshiftrows => "INVSHIFTROWS"
  | .mixcolumns => "MIXCOLUMNS"
  | .invmixcolumns => "INVMIXCOLUMNS"
  | .addroundkey _ => "ADDROUNDKEY"
  | .encblock => "ENCBLOCK"
  | .decblock => "DECBLOCK"
  | .ecbenc => "ECBENC"
  | .ecbdec => "ECBDEC"

end Sys2Proof
end

