-- ==== Sys2Proof/Machine/Operands.lean ====
section
/-! DEFINITION. Operands: byte packing on the bus, the matrix view of a block, the register map with its address
decode, and each command's destination set. -/

namespace Sys2Proof.Machine

/-! ### Byte packing (spec/20_memory.md R64) -/

/-- Byte `j` of a bus word, `v[8j+7 : 8j]` (R64). -/
def byteOf (v : Word) (j : Nat) : Byte := v.extractLsb' (8 * j) 8

/-- The four bytes of a bus word, the least significant first (R64). -/
def bytesOf (v : Word) : List Byte := [byteOf v 0, byteOf v 1, byteOf v 2, byteOf v 3]

/-- `b[4k] | b[4k+1] << 8 | b[4k+2] << 16 | b[4k+3] << 24` (R64). -/
def packBytes (b0 b1 b2 b3 : Byte) : Word :=
  b0.setWidth 32 ||| (b1.setWidth 32 <<< 8) ||| (b2.setWidth 32 <<< 16) ||| (b3.setWidth 32 <<< 24)

/-- `pack(b, k)`: word `k` of a byte array (R64). -/
def packWord (n : Nat) (b : Vector Byte n) (k : Nat) (h : 4 * k + 3 < n) : Word :=
  packBytes b[4 * k] b[4 * k + 1] b[4 * k + 2] b[4 * k + 3]

/-- The store of a bus word: `b[4k+j] <- v[8j+7 : 8j]` for j in 0..3, every other byte kept (R64). -/
def storeWord (b : Block) (k : Nat) (v : Word) : Block :=
  Vector.ofFn fun i : Fin 16 => if i.val / 4 = k then byteOf v (i.val % 4) else b[i]

/-! ### The matrix view (spec/00_scope.md R11) -/

/-- `s[r][c] = st[4*c + r]` (R11). -/
def cell (st : Block) (r c : Fin 4) : Byte := st[4 * c.val + r.val]

/-- The block whose matrix view is `f`. -/
def ofMatrix (f : Fin 4 → Fin 4 → Byte) : Block :=
  Vector.ofFn fun i : Fin 16 => f ⟨i.val % 4, by omega⟩ ⟨i.val / 4, by omega⟩

/-! ### The register map (spec/10_state.md R21) -/

/-- What an address of the host register map names (R21). -/
inductive Reg where
  | id
  | param
  | cmd
  | status
  | errcode
  | len
  | outlen
  | gfop
  | gfres
  /-- KEYk. -/
  | key (k : Fin 4)
  /-- STATEk. -/
  | state (k : Fin 4)
  /-- SCHEDk. -/
  | sched (k : Fin 44)
  /-- BUF word k. -/
  | buf (k : Nat)
  deriving DecidableEq, Repr

/-- The offset of a register, the first column of R21. -/
def regOffset : Reg → Nat
  | .id => 0x000
  | .param => 0x004
  | .cmd => 0x008
  | .status => 0x00C
  | .errcode => 0x010
  | .len => 0x014
  | .outlen => 0x018
  | .gfop => 0x01C
  | .gfres => 0x020
  | .key k => 0x030 + 4 * k.val
  | .state k => 0x040 + 4 * k.val
  | .sched k => 0x100 + 4 * k.val
  | .buf k => 0x1000 + 4 * k

/-- The bus address of a register. -/
def regAddr (r : Reg) : Addr := BitVec.ofNat 16 (regOffset r)

/-- A register that exists: every named one, and the BUF words with `0 <= 4k < BUF_SIZE` (R21). -/
def Reg.present (c : Config) : Reg → Bool
  | .buf k => decide (4 * k < c.bufSize)
  | _ => true

/-- The nine control and operand registers at 0x000..0x020, one word each (R21). -/
def controlRegs : List Reg := [.id, .param, .cmd, .status, .errcode, .len, .outlen, .gfop, .gfres]

/-- The decode of R70 and R71 on an offset: what it names, or none where it is misaligned (R65) or reserved (R67). -/
def decodeOffset (c : Config) (n : Nat) : Option Reg :=
  if n % 4 ≠ 0 then none
  else if n ≤ 0x020 then controlRegs[n / 4]?
  else if h : 0x030 ≤ n ∧ n ≤ 0x03C then some (.key ⟨(n - 0x030) / 4, by omega⟩)
  else if h : 0x040 ≤ n ∧ n ≤ 0x04C then some (.state ⟨(n - 0x040) / 4, by omega⟩)
  else if h : 0x100 ≤ n ∧ n ≤ 0x1AC then some (.sched ⟨(n - 0x100) / 4, by omega⟩)
  else if 0x1000 ≤ n ∧ n < 0x1000 + c.bufSize then some (.buf ((n - 0x1000) / 4))
  else none

/-- The address decode of the bus (R70, R71). -/
def decodeAddr (c : Config) (a : Addr) : Option Reg := decodeOffset c a.toNat

/-- "read-only: writes are ignored with an OKAY response" (R68). -/
def readOnly : Reg → Bool
  | .id => true
  | .param => true
  | .errcode => true
  | .outlen => true
  | .gfres => true
  | .sched _ => true
  | .cmd => false
  | .status => false
  | .len => false
  | .gfop => false
  | .key _ => false
  | .state _ => false
  | .buf _ => false

/-! ### Destination sets (spec/30_encoding.md R97) -/

/-- STATE0..3. -/
def inState : Reg → Bool
  | .state _ => true
  | _ => false

/-- SCHED0..43. -/
def inSched : Reg → Bool
  | .sched _ => true
  | _ => false

/-- Every BUF word. -/
def inBuf : Reg → Bool
  | .buf _ => true
  | _ => false

/-- Whether a register or BUF word is in a command's destination set, the table of R97. -/
def destination (i : Instr) (r : Reg) : Bool :=
  match i with
  | .keyexp => inSched r
  | .gfmul => r == .gfres
  | .subbytes => inState r
  | .invsubbytes => inState r
  | .shiftrows => inState r
  | .invshiftrows => inState r
  | .mixcolumns => inState r
  | .invmixcolumns => inState r
  | .addroundkey _ => inState r
  | .encblock => inState r || inSched r
  | .decblock => inState r || inSched r
  | .ecbenc => inBuf r || inSched r || r == .outlen
  | .ecbdec => inBuf r || inSched r || r == .outlen

/-- `target(a) in dest(PEND)` of R70; an ILLEGAL word has an empty destination set (R97). -/
def pendingDestination (pend : Option Word) (r : Reg) : Bool :=
  match pend with
  | none => false
  | some w =>
    match decodeWord w with
    | .ok i => destination i r
    | .error _ => false

end Sys2Proof.Machine
end

