-- ==== Sys2Proof/Machine/Ops.lean ====
section
/-! DEFINITION. The operations every command and transaction is written with: the bytes of BUF, the acceptance of a
command, its completion with and without an error, and the RESET event. -/

namespace Sys2Proof.Machine

/-! ### BUF (spec/10_state.md R40) -/

/-- The canonical form: byte indexes strictly rising. No entry can equal what an unlisted index holds, since an
unlisted index holds no written byte. -/
abbrev Memory.wf (m : Memory) : Prop := m.Pairwise fun a b => a.1 < b.1

/-- The byte written at an index since reset, if any. -/
def Memory.lookup : Memory → Nat → Option Byte
  | [], _ => none
  | (k, c) :: m, i => if k = i then some c else lookup m i

/-- `BUF[i] <- b` (R12), keeping the canonical form. -/
def Memory.write : Memory → Nat → Byte → Memory
  | [], i, b => [(i, b)]
  | (k, c) :: m, i, b =>
    if i < k then (i, b) :: (k, c) :: m
    else if i = k then (i, b) :: m
    else (k, c) :: write m i b

/-- What an index not written since reset reads as: its draw of that reset, the same at every read (R251, U2, U3). -/
def unwrittenByte (epoch i : Nat) : Byte := Config.bufDraw epoch i

/-- `BUF[i]` (R12): "A byte keeps its value until a host write or an ECB command writes it" (R40). -/
def Memory.read (epoch : Nat) (m : Memory) (i : Nat) : Byte := (m.lookup i).getD (unwrittenByte epoch i)

/-- Consecutive bytes from an index on. -/
def Memory.writeBytes : Memory → Nat → List Byte → Memory
  | m, _, [] => m
  | m, i, b :: bs => writeBytes (m.write i b) (i + 1) bs

/-- `BUF[i]` of a state. -/
def State.bufByte (s : State) (i : Nat) : Byte := s.buf.read s.bufEpoch i

/-- `BUF[0..n-1]` of a state. -/
def State.bufBytes (s : State) (n : Nat) : List Byte := (List.range n).map s.bufByte

/-- `pack(BUF, k)` (R64). -/
def State.bufWord (s : State) (k : Nat) : Word :=
  packBytes (s.bufByte (4 * k)) (s.bufByte (4 * k + 1)) (s.bufByte (4 * k + 2)) (s.bufByte (4 * k + 3))

/-! ### Acceptance and completion (spec/60_exceptions.md R225 to R228) -/

/-- `accept(v)` of R225. "Nothing else changes at acceptance" (R225). -/
def accept (s : State) (v : Word) : State :=
  { s with cmd := v, pend := some v, busy := true, done := false, err := false, errcode := 0x00#8 }

/-- The completion's last statements (R226): BUSY, DONE and PEND, then ERR and ERRCODE by the outcome. -/
def finish (s : State) (outcome : Option ErrorCode) : State :=
  { s with
    busy := false
    done := true
    pend := none
    err := outcome.isSome
    errcode := match outcome with
      | none => 0x00#8
      | some e => errorCode e }

/-- `complete(ok)` (R13, R226). -/
def completeOk (s : State) : State := finish s none

/-- `raise E` (R13, R227): the core's only exception. It is no trap: nothing is saved but the code in ERRCODE. -/
def raiseError (e : ErrorCode) (s : State) : State := finish s (some e)

/-! ### RESET (spec/70_reset_and_hazards.md R250 to R252) -/

/-- The RESET event: every register at its reset value, BUF a fresh draw per byte, a pending command abandoned
(R251, R252). What stands outside the core is kept: the parameters, the HOST's program, the order of turns, the
names the HOST has bound and the responses it has recorded. -/
def resetEvent (s : State) : State :=
  { State.reset with
    cfg := s.cfg
    bufEpoch := s.bufEpoch + 1
    draws := s.draws
    host := s.host
    turns := s.turns
    bound := s.bound
    replies := s.replies }

end Sys2Proof.Machine
end

