-- ==== Sys2Proof/Machine/KeySchedule.lean ====
section
/-! DEFINITION. The key schedule and the KEYEXP command (spec/41_key_schedule.md R130 to R133). -/

namespace Sys2Proof.Machine

/-- "Rotate left by one byte": (t0, t1, t2, t3) to (t1, t2, t3, t0) (R18, R130). -/
def rotWord (t : SWord) : SWord := #v[t[1], t[2], t[3], t[0]]

/-- "substitute every byte of `temp` through the fixed substitution table" (R130). -/
def subWord (t : SWord) : SWord := t.map sbox

/-- XOR of two schedule words, byte by byte. -/
def xorWord (a b : SWord) : SWord := Vector.zipWith (· ^^^ ·) a b

/-- What becomes of `temp` at word index `i` (R130, the T_i of R133). -/
def scheduleTemp (i : Nat) (t : SWord) : SWord :=
  if i % 4 = 0 then xorWord (subWord (rotWord t)) #v[rcon (i / 4), 0x00#8, 0x00#8, 0x00#8] else t

/-- Word `k` of the key, k in 0..3: "The first 16 bytes of the schedule equal `key`" (R130). -/
def keyWord (key : Block) (k : Fin 4) : SWord := Vector.ofFn fun j : Fin 4 => key[4 * k.val + j.val]

/-- Word `i` from the words before it, the latest first: "the word four positions back XOR `temp`" (R130). -/
def nextWord (i : Nat) (ws : List SWord) : SWord :=
  xorWord (ws.getD 3 (Vector.replicate 4 0x00#8)) (scheduleTemp i (ws.getD 0 (Vector.replicate 4 0x00#8)))

/-- The key's four words and `n` words after them, the latest first (R130). -/
def scheduleWords (key : Block) : Nat → List SWord
  | 0 => [keyWord key 3, keyWord key 2, keyWord key 1, keyWord key 0]
  | n + 1 =>
    let ws := scheduleWords key n
    nextWord (n + 4) ws :: ws

/-- `expand(key)` (R130): the 176 bytes of words 0..43. -/
@[irreducible] def expand (key : Block) : Schedule :=
  let ws := (scheduleWords key 40).reverse
  Vector.ofFn fun p : Fin 176 => (ws.getD (p.val / 4) (Vector.replicate 4 0x00#8))[p.val % 4]

/-- `SCHED <- expand(KEY); SKV <- 1`, as every schedule-deriving command does it (R24, R25). -/
def deriveSchedule (s : State) : State := { s with sched := expand s.key, skv := true }

/-- KEYEXP (R131). -/
def execKeyexp (s : State) : Host.Outcome State Fault Refusal := .next (completeOk (deriveSchedule s))

end Sys2Proof.Machine
end

