-- ==== Sys2Proof/Machine/Field.lean ====
section
/-! DEFINITION. GF(2^8) arithmetic and the GFMUL command (spec/40_field_and_tables.md R110 to R114, R120). -/

namespace Sys2Proof.Machine

/-- `xtime(a)` (R110): "doubling with reduction by the constant 0x1b whenever the high bit overflows". -/
def xtime (a : Byte) : Byte := if a.getLsbD 7 then (a <<< 1) ^^^ 0x1B#8 else a <<< 1

/-- The loop of R111, with `n` iterations left: if b[0] then p ^ a, then a doubled and b shifted right. -/
def gmulLoop : Nat → Byte → Byte → Byte → Byte
  | 0, p, _, _ => p
  | n + 1, p, a, b => gmulLoop n (if b.getLsbD 0 then p ^^^ a else p) (xtime a) (b >>> 1)

/-- `gmul(a, b)` (R111). -/
def gmul (a b : Byte) : Byte := gmulLoop 8 0x00#8 a b

/-- The bytes 0x00 to 0xFF in order. -/
def allBytes : List Byte := (List.range 256).map (BitVec.ofNat 8)

/-- `ginv(a)` (R113): 0 for 0, else the b with gmul(a, b) = 0x01. -/
def ginv (a : Byte) : Byte :=
  if a = 0x00#8 then 0x00#8 else (allBytes.find? fun b => gmul a b == 0x01#8).getD 0x00#8

/-- `rotl8(b, s)` (R114). -/
def rotl8 (b : Byte) (s : Nat) : Byte := (b <<< s) ||| (b >>> (8 - s))

/-- `affine(b)` (R114). -/
def affine (b : Byte) : Byte := b ^^^ rotl8 b 1 ^^^ rotl8 b 2 ^^^ rotl8 b 3 ^^^ rotl8 b 4 ^^^ 0x63#8

/-- GFMUL (R120): `GF_P <- gmul(GF_A, GF_B)`. -/
def execGfmul (s : State) : Host.Outcome State Fault Refusal :=
  .next (completeOk { s with gfP := gmul s.gfA s.gfB })

end Sys2Proof.Machine
end

