-- ==== Sys2Proof/Machine/Transforms.lean ====
section
/-! DEFINITION. The eight round transforms and their commands (spec/42_round_transforms.md R141 to R154). -/

namespace Sys2Proof.Machine

/-- `sub_bytes(st)` (R141). -/
@[irreducible] def subBytes (st : Block) : Block := st.map sbox

/-- `inv_sub_bytes(st)` (R143). -/
@[irreducible] def invSubBytes (st : Block) : Block := st.map invSbox

/-- `shift_rows(st)`: `s'[r][c] <- s[r][(c + r) mod 4]` (R145). -/
@[irreducible] def shiftRows (st : Block) : Block := ofMatrix fun r c => cell st r (c + r)

/-- `inv_shift_rows(st)`: `s'[r][(c + r) mod 4] <- s[r][c]` (R147). -/
@[irreducible] def invShiftRows (st : Block) : Block := ofMatrix fun r c => cell st r (c - r)

/-- A 4 by 4 matrix of field elements, by rows. -/
abbrev Matrix4 := Vector (Vector Byte 4) 4

/-- The matrix M of R149. -/
def mixMatrix : Matrix4 := #v[
  #v[0x02#8, 0x03#8, 0x01#8, 0x01#8],
  #v[0x01#8, 0x02#8, 0x03#8, 0x01#8],
  #v[0x01#8, 0x01#8, 0x02#8, 0x03#8],
  #v[0x03#8, 0x01#8, 0x01#8, 0x02#8]]

/-- The matrix IM of R151. -/
def invMixMatrix : Matrix4 := #v[
  #v[0x0e#8, 0x0b#8, 0x0d#8, 0x09#8],
  #v[0x09#8, 0x0e#8, 0x0b#8, 0x0d#8],
  #v[0x0d#8, 0x09#8, 0x0e#8, 0x0b#8],
  #v[0x0b#8, 0x0d#8, 0x09#8, 0x0e#8]]

/-- Every column left-multiplied by a matrix, "using field multiplication and XOR-accumulation" (R149, R151). -/
def mixWith (m : Matrix4) (st : Block) : Block :=
  ofMatrix fun r c =>
    gmul m[r][0] (cell st 0 c) ^^^ gmul m[r][1] (cell st 1 c) ^^^ gmul m[r][2] (cell st 2 c) ^^^ gmul m[r][3] (cell st 3 c)

/-- `mix_columns(st)` (R149). -/
@[irreducible] def mixColumns (st : Block) : Block := mixWith mixMatrix st

/-- `inv_mix_columns(st)` (R151). -/
@[irreducible] def invMixColumns (st : Block) : Block := mixWith invMixMatrix st

/-- `add_round_key(st, w, round)`: `s'[r][c] <- s[r][c] ^ w[16*round + 4c + r]` (R153). -/
@[irreducible] def addRoundKey (st : Block) (w : Schedule) (round : Fin 11) : Block :=
  ofMatrix fun r c => cell st r c ^^^ w[16 * round.val + 4 * c.val + r.val]

/-- SUBBYTES (R142). -/
def execSubbytes (s : State) : Host.Outcome State Fault Refusal :=
  .next (completeOk { s with st := subBytes s.st })

/-- INVSUBBYTES (R144). -/
def execInvsubbytes (s : State) : Host.Outcome State Fault Refusal :=
  .next (completeOk { s with st := invSubBytes s.st })

/-- SHIFTROWS (R146). -/
def execShiftrows (s : State) : Host.Outcome State Fault Refusal :=
  .next (completeOk { s with st := shiftRows s.st })

/-- INVSHIFTROWS (R148). -/
def execInvshiftrows (s : State) : Host.Outcome State Fault Refusal :=
  .next (completeOk { s with st := invShiftRows s.st })

/-- MIXCOLUMNS (R150). -/
def execMixcolumns (s : State) : Host.Outcome State Fault Refusal :=
  .next (completeOk { s with st := mixColumns s.st })

/-- INVMIXCOLUMNS (R152). -/
def execInvmixcolumns (s : State) : Host.Outcome State Fault Refusal :=
  .next (completeOk { s with st := invMixColumns s.st })

/-- ADDROUNDKEY r (R154): BAD_ROUND for r > 10, then NO_SCHEDULE where SKV = 0, both with STATE unchanged. -/
def execAddroundkey (rnd : Nat) (s : State) : Host.Outcome State Fault Refusal :=
  if h : rnd > 10 then .next (raiseError .badRound s)
  else if s.skv = false then .next (raiseError .noSchedule s)
  else .next (completeOk { s with st := addRoundKey s.st s.sched ⟨rnd, by omega⟩ })

end Sys2Proof.Machine
end

