-- ==== Sys2Proof/Machine/BlockCipher.lean ====
section
/-! DEFINITION. The 11-round block cipher, its sequencer, and the ENCBLOCK and DECBLOCK commands
(spec/43_block_cipher.md R170 to R176). -/

namespace Sys2Proof.Machine

/-- One transform step of a round sequence (R171, R172). -/
inductive RoundStep where
  | sub
  | shift
  | mix
  | ark (round : Fin 11)
  | invSub
  | invShift
  | invMix
  deriving DecidableEq, Repr

/-- A step applied to a block, with the schedule it may read (R173). -/
def applyStep (w : Schedule) (x : Block) : RoundStep → Block
  | .sub => subBytes x
  | .shift => shiftRows x
  | .mix => mixColumns x
  | .ark round => addRoundKey x w round
  | .invSub => invSubBytes x
  | .invShift => invShiftRows x
  | .invMix => invMixColumns x

/-- A middle round of encryption (R171). -/
def encRound (r : Fin 11) : List RoundStep := [.sub, .shift, .mix, .ark r]

/-- ENC_SEQ (R171). -/
def encSeq : List RoundStep :=
  [.ark 0] ++ ([1, 2, 3, 4, 5, 6, 7, 8, 9] : List (Fin 11)).flatMap encRound ++ [.sub, .shift, .ark 10]

/-- A middle round of decryption; AddRoundKey comes before InvMixColumns (R172). -/
def decRound (r : Fin 11) : List RoundStep := [.invShift, .invSub, .ark r, .invMix]

/-- DEC_SEQ (R172). -/
def decSeq : List RoundStep :=
  [.ark 10] ++ ([9, 8, 7, 6, 5, 4, 3, 2, 1] : List (Fin 11)).flatMap decRound ++ [.invShift, .invSub, .ark 0]

/-- "starts from st and applies each step ... in order to the result of the previous one" (R173). -/
def runSteps (w : Schedule) (steps : List RoundStep) (st : Block) : Block := steps.foldl (applyStep w) st

/-- `cipher(st, w)` (R173). -/
@[irreducible] def cipher (st : Block) (w : Schedule) : Block := runSteps w encSeq st

/-- `inv_cipher(st, w)` (R173). -/
@[irreducible] def invCipher (st : Block) (w : Schedule) : Block := runSteps w decSeq st

/-- The direction of the sequencer (R174). -/
inductive Direction where
  | enc
  | dec
  deriving DecidableEq, Repr

/-- The sequence of a direction. -/
def seqOf : Direction → List RoundStep
  | .enc => encSeq
  | .dec => decSeq

/-- The sequencer that steps one transform per state (R174): the direction, the index of the next step, and the
working block. It "cannot be observed" (R174, R43), so it is no part of State. -/
structure Sequencer where
  dir : Direction
  k : Nat
  x : Block
  deriving DecidableEq, Repr

/-- "goes from k to k + 1 after each step, unconditionally. After k = 39 it goes to the completion" (R174). -/
def sequencerStep (w : Schedule) (q : Sequencer) : Sequencer :=
  match (seqOf q.dir)[q.k]? with
  | some step => { q with k := q.k + 1, x := applyStep w q.x step }
  | none => q

/-- `n` sequencer steps. -/
def runSequencer (w : Schedule) : Nat → Sequencer → Sequencer
  | 0, q => q
  | n + 1, q => runSequencer w n (sequencerStep w q)

/-- "The round of step k" (R174). -/
def roundOfStep (dir : Direction) (k : Nat) : Nat :=
  match dir with
  | .enc => if k = 0 then 0 else if k ≤ 36 then 1 + (k - 1) / 4 else 10
  | .dec => if k = 0 then 10 else if k ≤ 36 then 9 - (k - 1) / 4 else 0

/-- ENCBLOCK (R175). -/
def execEncblock (s : State) : Host.Outcome State Fault Refusal :=
  .next (completeOk { deriveSchedule s with st := cipher s.st (expand s.key) })

/-- DECBLOCK (R176). -/
def execDecblock (s : State) : Host.Outcome State Fault Refusal :=
  .next (completeOk { deriveSchedule s with st := invCipher s.st (expand s.key) })

end Sys2Proof.Machine
end

