-- ==== Sys2Proof/Machine/Ecb.lean ====
section
/-! DEFINITION. The ECB controller with PKCS7 padding: the byte-sequence functions, the in-place block pass over BUF,
and the ECBENC and ECBDEC commands (spec/44_ecb.md R190 to R202). -/

namespace Sys2Proof.Machine

/-! ### Byte sequences (R190 to R194) -/

/-- `N = 16 - (len mod 16)`, in 1..16 (R190). -/
def padCount (n : Nat) : Nat := 16 - n % 16

/-- The N padding bytes of an input of n bytes, each valued N (R190). -/
def padding (n : Nat) : List Byte := List.replicate (padCount n) (BitVec.ofNat 8 (padCount n))

/-- `pkcs7_pad(b)` (R190). -/
def pkcs7Pad (b : List Byte) : List Byte := b ++ padding b.length

/-- The check of R192 on a sequence of n bytes, read through `get`: `some P` for VALID(P), none for INVALID. -/
def paddingCheck (n : Nat) (get : Nat → Byte) : Option Nat :=
  let p := get (n - 1)
  if p.toNat = 0 ∨ p.toNat > 16 then none
  else if (List.range p.toNat).all fun k => get (n - p.toNat + k) == p then some p.toNat
  else none

/-- `pkcs7_check(d)` (R192). -/
def pkcs7Check (d : List Byte) : Option Nat := paddingCheck d.length fun i => d.getD i 0x00#8

/-- Block j of a byte sequence, `x[16j..16j+15]`. -/
def blockAt (x : List Byte) (j : Nat) : Block := Vector.ofFn fun i : Fin 16 => x.getD (16 * j + i.val) 0x00#8

/-- Every block of a byte sequence through f, concatenated in order (R193, R194). -/
def mapBlocks (f : Block → Block) (x : List Byte) : List Byte :=
  (List.range (x.length / 16)).flatMap fun j => (f (blockAt x j)).toList

/-- `ecb_encrypt_bytes(b, k)` (R193). -/
def ecbEncryptBytes (b : List Byte) (k : Block) : List Byte :=
  mapBlocks (fun x => cipher x (expand k)) (pkcs7Pad b)

/-- `ecb_decrypt_bytes(c, k)` (R194). -/
def ecbDecryptBytes (c : List Byte) (k : Block) : Except ErrorCode (List Byte × Nat) :=
  if c.length % 16 ≠ 0 then .error .invalidLength
  else if c.length = 0 then .error .invalidPadding
  else
    let d := mapBlocks (fun x => invCipher x (expand k)) c
    match pkcs7Check d with
    | none => .error .invalidPadding
    | some p => .ok (d.take (d.length - p), d.length - p)

/-! ### BUF in place (R195, R198) -/

/-- `BUF[16j .. 16j+15]` (R74). -/
def readBlock (epoch : Nat) (m : Memory) (j : Nat) : Block := Vector.ofFn fun i : Fin 16 => m.read epoch (16 * j + i.val)

/-- `BUF[16j .. 16j+15] <- b` (R74). -/
def writeBlock (m : Memory) (j : Nat) (b : Block) : Memory := m.writeBytes (16 * j) b.toList

/-- Blocks 0..n-1 of BUF through f in place, in ascending order, which R203 allows a model to fix. -/
def cryptBlocks (f : Block → Block) (epoch : Nat) : Nat → Memory → Memory
  | 0, m => m
  | n + 1, m =>
    let m' := cryptBlocks f epoch n m
    writeBlock m' n (f (readBlock epoch m' n))

/-- Every ECB error writes `OUTLEN <- 0` before it is raised (R202). -/
def raiseEcb (e : ErrorCode) (s : State) : State := raiseError e { s with outlen := 0x00000000#32 }

/-- ECBENC (R195, R196). -/
def execEcbenc (s : State) : Host.Outcome State Fault Refusal :=
  let l := s.len.toNat
  if l ≥ s.cfg.bufSize then .next (raiseEcb .bufferOverflow s)
  else
    let padded := s.buf.writeBytes l (padding l)
    let t := l + padCount l
    let w := expand s.key
    .next (completeOk { deriveSchedule s with
      buf := cryptBlocks (fun x => cipher x w) s.bufEpoch (t / 16) padded
      outlen := BitVec.ofNat 32 t })

/-- ECBDEC (R198 to R201). -/
def execEcbdec (s : State) : Host.Outcome State Fault Refusal :=
  let l := s.len.toNat
  if l > s.cfg.bufSize then .next (raiseEcb .bufferOverflow s)
  else if l % 16 ≠ 0 then .next (raiseEcb .invalidLength s)
  else if l = 0 then .next (raiseEcb .invalidPadding s)
  else
    let w := expand s.key
    let m := cryptBlocks (fun x => invCipher x w) s.bufEpoch (l / 16) s.buf
    let decrypted := { deriveSchedule s with buf := m }
    match paddingCheck l (m.read s.bufEpoch) with
    | none => .next (raiseEcb .invalidPadding decrypted)
    | some p => .next (completeOk { decrypted with outlen := BitVec.ofNat 32 (l - p) })

end Sys2Proof.Machine
end

