-- ==== Sys2Proof/Machine/Engine.lean ====
section
/-! DEFINITION. The ENGINE agent: the completion of the pending command (spec/60_exceptions.md R226), and the
acceptance that makes a word the command of the very next step. -/

namespace Sys2Proof.Machine

/-- The completion of a word that decodes as ILLEGAL: "it raises ILLEGAL_COMMAND ... without changing any state other
than CMD, STATUS and ERRCODE" (R95, R226). -/
def completeIllegal (s : State) : State := raiseError .illegalCommand s

/-- `complete_step` of R226 for a pending word. -/
def completeWord (w : Word) (s : State) : Host.Outcome State Fault Refusal :=
  match decodeWord w with
  | .ok i => exec i s
  | .error _ => .next (completeIllegal s)

/-- The ENGINE's one step, "enabled whenever PEND != none" (R226); where it is not enabled nothing happens. -/
def engineStep (s : State) : Host.Outcome State Fault Refusal :=
  match s.pend with
  | some w => completeWord w s
  | none => .next s

/-- A word accepted as R225 accepts it, with the ENGINE's turn next. -/
def withPendingWord (s : State) (w : Word) : State := { accept s w with turns := .engine :: s.turns }

end Sys2Proof.Machine
end

