-- ==== Sys2Proof/Machine/Bus.lean ====
section
/-! DEFINITION. Host bus transactions: MemRead and MemWrite (spec/20_memory.md R60 to R71,
spec/70_reset_and_hazards.md R260, R261). -/

namespace Sys2Proof.Machine

/-- The value a register reads as while the core is idle (R70). -/
def readReg (s : State) : Reg → Word
  | .id => 0x41455331#32
  | .param => BitVec.ofNat 32 s.cfg.bufSize
  | .cmd => s.cmd
  | .status => statusWord s
  | .errcode => s.errcode.setWidth 32
  | .len => s.len
  | .outlen => s.outlen
  | .gfop => (s.gfB ++ s.gfA).setWidth 32
  | .gfres => s.gfP.setWidth 32
  | .key k => packWord 16 s.key k.val (by omega)
  | .state k => packWord 16 s.st k.val (by omega)
  | .sched k => packWord 176 s.sched k.val (by omega)
  | .buf k => s.bufWord k

/-- `MemRead(a, 4)` (R70): the data and the response, and the state with the count of draws moved on where the read
is one of R261. -/
def memRead (s : State) (a : Addr) : Word × Resp × State :=
  match decodeAddr s.cfg a with
  | none => (0x00000000#32, .error, s)
  | some r =>
    if s.busy && pendingDestination s.pend r then (Config.busyDraw s.draws, .okay, { s with draws := s.draws + 1 })
    else (readReg s r, .okay, s)

/-- The store of an accepted write (R71). A read-only register takes nothing (R68); STATUS never comes here busy. -/
def writeReg (s : State) (v : Word) : Reg → State
  | .cmd => accept s v
  | .status => writeStatus s v
  | .len => { s with len := v }
  | .gfop => { s with gfA := byteOf v 0, gfB := byteOf v 1 }
  | .key k => { s with key := storeWord s.key k.val v, skv := false }
  | .state k => { s with st := storeWord s.st k.val v }
  | .buf k => { s with buf := s.buf.writeBytes (4 * k) (bytesOf v) }
  | .id => s
  | .param => s
  | .errcode => s
  | .outlen => s
  | .gfres => s
  | .sched _ => s

/-- `MemWrite(a, 4, v)` (R71): the response and the state. STATUS is never dropped and a read-only register is
ignored; every other write is dropped with VIOL <- 1 while BUSY = 1 (R260). -/
def memWrite (s : State) (a : Addr) (v : Word) : Resp × State :=
  match decodeAddr s.cfg a with
  | none => (.error, s)
  | some r =>
    if r = .status then (.okay, writeReg s v r)
    else if readOnly r then (.okay, s)
    else if s.busy then (.okay, { s with viol := true })
    else (.okay, writeReg s v r)

end Sys2Proof.Machine
end

