-- ==== Sys2Proof/Machine/HostAgent.lean ====
section
/-! DEFINITION. The HOST agent: one line of its program a step, and the notation's pseudo-instructions
(spec/30_encoding.md R100 to R104). -/

namespace Sys2Proof.Machine

/-- A recorded response (R100). -/
def record (s : State) (r : Reply) : State := { s with replies := r :: s.replies }

/-- The word a name is bound to, if it is bound (R100). -/
def Bindings.lookup : Bindings → String → Option Word
  | [], _ => none
  | (m, u) :: b, n => if m = n then some u else lookup b n

/-- "bound to `name`" (R100): a name bound before takes the new word. -/
def Bindings.bind : Bindings → String → Word → Bindings
  | [], n, v => [(n, v)]
  | (m, u) :: b, n, v => if m = n then (n, v) :: b else (m, u) :: bind b n v

/-- "the `rdata` is bound to `name`, and `resp` is recorded" (R100). -/
def recordRead (s : State) (name : String) (rdata : Word) (resp : Resp) : State :=
  record { s with bound := s.bound.bind name rdata } (.read name rdata resp)

/-- One step of the HOST (R100, R101). A POLL is the loop `L: RD <addr> -> t; if (t & mask) != value goto L`: it reads once
into `t` and stays at the head of the program while
`(rdata & mask) != value`. A HOST with no program left does nothing. -/
def hostStep (s : State) : State :=
  match s.host with
  | [] => s
  | .wr a v :: rest =>
    let (resp, s') := memWrite { s with host := rest } a v
    record s' (.write resp)
  | .rd a name :: rest =>
    let (rdata, resp, s') := memRead { s with host := rest } a
    recordRead s' name rdata resp
  | .poll a mask value :: rest =>
    let (rdata, resp, s') := memRead s a
    recordRead { s' with host := if rdata &&& mask = value then rest else s.host } "t" rdata resp

/-- The address `BUF+<byte offset>` (R100). -/
def bufAddr (offset : Nat) : Addr := BitVec.ofNat 16 (0x1000 + offset)

/-- `CMD <mnemonic> [r]` (R102). -/
def hostCmd (i : Instr) : List HostOp := [.wr (regAddr .cmd) (encode i)]

/-- `RUN <mnemonic> [r]` is `CMD <mnemonic> [r]; POLL STATUS, 0x3, 0x2` (R103). -/
def hostRun (i : Instr) : List HostOp := hostCmd i ++ [.poll (regAddr .status) 0x3#32 0x2#32]

/-- `WRKEY b0 .. b15`: four WRs of `pack(b, k)` to KEY0..3 (R104). -/
def hostWrKey (b : Block) : List HostOp :=
  (List.finRange 4).map fun k => .wr (regAddr (.key k)) (packWord 16 b k.val (by omega))

/-- `WRBLK STATE, b0 .. b15` (R104). -/
def hostWrState (b : Block) : List HostOp :=
  (List.finRange 4).map fun k => .wr (regAddr (.state k)) (packWord 16 b k.val (by omega))

/-- `WRBLK BUF+4k0, b0 .. b15`: four WRs to the BUF words from word `k0` on (R104). -/
def hostWrBuf (k0 : Nat) (b : Block) : List HostOp :=
  (List.finRange 4).map fun k => .wr (regAddr (.buf (k0 + k.val))) (packWord 16 b k.val (by omega))

end Sys2Proof.Machine
end

