-- ==== Sys2Proof/Machine/Scheduler.lean ====
section
/-! DEFINITION. The interleaving: which agent takes the next step (spec/20_memory.md R77, spec/60_exceptions.md R231,
spec/70_reset_and_hazards.md R250, R266). -/

namespace Sys2Proof.Machine

/-- One step of one agent, or the RESET event. -/
def takeTurn (t : Turn) (s : State) : Host.Outcome State Fault Refusal :=
  match t with
  | .host => .next (hostStep s)
  | .engine => engineStep s
  | .reset => .next (resetEvent s)

/-- The agent whose turn it is (R77, U6): the head of `turns`; when no order is given any more, the ENGINE where a
command is pending (so that a completion is not put off for ever, R266), else the HOST. -/
def nextTurn (s : State) : Turn :=
  match s.turns with
  | t :: _ => t
  | [] => if s.pend.isSome then .engine else .host

/-- The state with the turn that is being taken struck off. -/
def dropTurn (s : State) : State := { s with turns := s.turns.tail }

/-- One step of the model. -/
def interleave (s : State) : Host.Outcome State Fault Refusal := takeTurn (nextTurn s) (dropTurn s)

end Sys2Proof.Machine
end

