-- ==== Sys2Proof/Machine/Step.lean ====
section
/-! DEFINITION. One step of the machine, and the placing of a command word for the next step. -/

namespace Sys2Proof.Machine

/-- One step: of the HOST, of the ENGINE, or the RESET event (R15, R77). -/
def step (s : State) : Host.Outcome State Fault Refusal := interleave s

/-- The core fetches no instructions (R45): a command enters by a write of CMD. This is the state that the acceptance
of the word leaves (R225), with the ENGINE's completion of it as the very next step. -/
def State.withFetchWord (s : State) (nbits w : Nat) : State := withPendingWord s (BitVec.ofNat 32 (w % 2 ^ nbits))

end Sys2Proof.Machine
end

