-- ==== Sys2Proof/Safety.lean ====
section
/-! DEFINITION. What holds of a state of the core in every run (spec/10_state.md R46), and what a safe run is. -/

namespace Sys2Proof.Machine

/-- BUF holds bytes only below BUF_SIZE, in canonical form (R40). -/
abbrev State.bufOk (s : State) : Prop := s.buf.wf ∧ ∀ c ∈ s.buf, c.1 < s.cfg.bufSize

/-- The invariants (b) to (e) of R46, that ERRCODE is a code of R220 (U9), and that BUF is in canonical form. R46(a) is
part of the types of SCHED and STATE. -/
structure State.Inv (s : State) : Prop where
  /-- R46(b). -/
  schedule : s.skv = true → s.sched = expand s.key
  /-- R46(c). -/
  busyPend : s.busy = true ↔ s.pend ≠ none
  /-- R46(d). -/
  busyClear : s.busy = true → s.done = false ∧ s.err = false ∧ s.errcode = 0#8
  /-- R46(e). -/
  errCode : s.err = true ↔ s.errcode ≠ 0#8
  /-- R220: "7..255 ... never produced". -/
  codeRange : s.errcode.toNat ≤ 6
  /-- R40. -/
  buffer : s.bufOk

/-- A step that goes on: no fault and no refusal. "The core never traps, hangs or ignores such a word" (R95) and "at
transaction level every transaction completes" (R61). -/
def Advances (s : State) : Prop := ∃ t, step s = .next t

/-- Two states of the core that differ at most in VIOL, in the free values' counters of busy reads, and in the inputs and
records around the core. -/
structure AgreeOnCore (t u : State) : Prop where
  cfg : t.cfg = u.cfg
  key : t.key = u.key
  st : t.st = u.st
  sched : t.sched = u.sched
  skv : t.skv = u.skv
  gfA : t.gfA = u.gfA
  gfB : t.gfB = u.gfB
  gfP : t.gfP = u.gfP
  len : t.len = u.len
  outlen : t.outlen = u.outlen
  cmd : t.cmd = u.cmd
  busy : t.busy = u.busy
  done : t.done = u.done
  err : t.err = u.err
  errcode : t.errcode = u.errcode
  pend : t.pend = u.pend
  buf : t.buf = u.buf
  bufEpoch : t.bufEpoch = u.bufEpoch

/-- Two states agree on what a command reads: the column "operands read" of R97. An ECB command also depends on the
parameter BUF_SIZE. -/
def AgreeOnOperands (i : Instr) (s s' : State) : Prop :=
  match i with
  | .keyexp => s.key = s'.key
  | .gfmul => s.gfA = s'.gfA ∧ s.gfB = s'.gfB
  | .subbytes => s.st = s'.st
  | .invsubbytes => s.st = s'.st
  | .shiftrows => s.st = s'.st
  | .invshiftrows => s.st = s'.st
  | .mixcolumns => s.st = s'.st
  | .invmixcolumns => s.st = s'.st
  | .addroundkey _ => s.st = s'.st ∧ s.sched = s'.sched ∧ s.skv = s'.skv
  | .encblock => s.key = s'.key ∧ s.st = s'.st
  | .decblock => s.key = s'.key ∧ s.st = s'.st
  | .ecbenc => s.cfg = s'.cfg ∧ s.key = s'.key ∧ s.len = s'.len ∧ ∀ n, s.bufByte n = s'.bufByte n
  | .ecbdec => s.cfg = s'.cfg ∧ s.key = s'.key ∧ s.len = s'.len ∧ ∀ n, s.bufByte n = s'.bufByte n

/-- The ERRCODE values a command can end with (R221). -/
def possibleCodes : Instr → List Byte
  | .keyexp => [0#8]
  | .gfmul => [0#8]
  | .subbytes => [0#8]
  | .invsubbytes => [0#8]
  | .shiftrows => [0#8]
  | .invshiftrows => [0#8]
  | .mixcolumns => [0#8]
  | .invmixcolumns => [0#8]
  | .addroundkey _ => [0#8, 4#8, 5#8]
  | .encblock => [0#8]
  | .decblock => [0#8]
  | .ecbenc => [0#8, 6#8]
  | .ecbdec => [0#8, 6#8, 1#8, 2#8]

end Sys2Proof.Machine
end

