-- ==== Sys2Proof/Certificates/Slice0/Obligations.lean ====
section
/-! DEFINITION. The statements about the model, each from the numbered rules of spec/ (OBLIGATIONS.json lists them with
what they cite). -/

open Sys2Proof Sys2Proof.Machine

/-! ### Encoding (spec/30_encoding.md) -/

/-- R105, the encoding examples; the words are written out from the format of R90. -/
def Obligations.CommandWordsDecode : Prop :=
  decodeWord 0x00000001#32 = .ok .keyexp ∧ encode .keyexp = 0x00000001#32 ∧
  decodeWord 0x0000000A#32 = .ok .encblock ∧ encode .encblock = 0x0000000A#32 ∧
  decodeWord 0x00000009#32 = .ok (.addroundkey 0) ∧ encode (.addroundkey 0) = 0x00000009#32 ∧
  decodeWord 0x00000A09#32 = .ok (.addroundkey 10) ∧ encode (.addroundkey 10) = 0x00000A09#32 ∧
  decodeWord 0x00000F09#32 = .ok (.addroundkey 15) ∧ encode (.addroundkey 15) = 0x00000F09#32 ∧
  (∀ s : State, ∃ t, exec (.addroundkey 15) s = .next t ∧ t.err = true ∧ t.errcode = 4#8) ∧
  decodeWord 0x00001009#32 = .error .reservedBits ∧
  decodeWord 0x00000103#32 = .error .unexpectedRound ∧
  decodeWord 0x0000000E#32 = .error .badOpcode

/-- R93, R99: decoding and encoding are inverse to each other over all 2^32 words, and on bytes. -/
def Obligations.DecodeInvertsEncode : Prop :=
  (∀ (w : Word) (i : Instr), decodeWord w = .ok i ↔ i.wellFormed = true ∧ w = encode i) ∧
  (∀ (i : Instr) (rest : List Byte), i.wellFormed = true → decodeBytes (encodeBytes i ++ rest) = .ok (i, rest))

/-- R94: the legal words are those of the opcode map's rows, which are 12 single words and ADDROUNDKEY's 16; no word has two
rows; and a word decodes to its row's command. -/
def Obligations.LegalWordsAreTheRows : Prop :=
  (∀ w : Word, (∃ i, decodeWord w = .ok i) ↔ ∃ r ∈ opcodeTable, r.covers w = true) ∧
  (∀ w : Word, (∃ i, decodeWord w = .ok i) ↔
    w &&& 0xFFFFF0FF#32 = 0x00000009#32 ∨
    w ∈ [0x1#32, 0x2#32, 0x3#32, 0x4#32, 0x5#32, 0x6#32, 0x7#32, 0x8#32, 0xA#32, 0xB#32, 0xC#32, 0xD#32]) ∧
  (∀ (w : Word) (r₁ r₂ : OpcodeRow), r₁ ∈ opcodeTable → r₂ ∈ opcodeTable → r₁.covers w = true → r₂.covers w = true →
    r₁ = r₂) ∧
  (∀ (w : Word) (i : Instr) (r : OpcodeRow), decodeWord w = .ok i → r ∈ opcodeTable → r.covers w = true →
    r.mnemonic = i.mnemonic)

/-- R95: which words are ILLEGAL, by the bits of format CMD; that one is accepted all the same; and how it completes at the
ENGINE's step. That the ENGINE steps where no order of turns is given is the model's choice (log entry 1), and the last
clause rests on it. -/
def Obligations.IllegalWordsCompleteWithError : Prop :=
  (∀ w : Word, (∃ e, decodeWord w = .error e) ↔
    (w >>> 12 ≠ 0#32 ∨ w &&& 0xFF#32 = 0#32 ∨ 0x0E#32 ≤ w &&& 0xFF#32 ∨
      (w &&& 0xFF#32 ≠ 0x09#32 ∧ (w >>> 8) &&& 0xF#32 ≠ 0#32))) ∧
  (∀ (s : State) (w : Word) (e : Illegal), decodeWord w = .error e → s.busy = false →
    memWrite s 0x0008#16 w =
      (.okay, { s with cmd := w, pend := some w, busy := true, done := false, err := false, errcode := 0#8 })) ∧
  (∀ (s : State) (w : Word) (e : Illegal), decodeWord w = .error e → s.pend = some w →
    (∀ ts, s.turns = .engine :: ts →
      step s = .next { s with turns := ts, busy := false, done := true, pend := none, err := true, errcode := 3#8 }) ∧
    (s.turns = [] →
      step s = .next { s with busy := false, done := true, pend := none, err := true, errcode := 3#8 }))

/-! ### Steps (spec/20_memory.md R77, spec/60_exceptions.md R226) -/

/-- R226: at the ENGINE's turn, a step runs the pending word's command, whether the turn is given or taken when no order is
given (the model's choice, log entry 1). -/
def Obligations.EngineStepRunsDecodedCommand : Prop :=
  ∀ (s : State) (w : Word) (i : Instr), s.pend = some w → decodeWord w = .ok i →
    (∀ ts, s.turns = .engine :: ts → step s = exec i { s with turns := ts }) ∧
    (s.turns = [] → step s = exec i s)

/-- R77, R231: the other turns. The HOST's turn runs a line of its program, and an RD line binds the name to the word read and
records the response (R100); RESET occurs at its turn; the ENGINE's turn does
nothing where no command is pending; and with no order given and nothing pending the HOST steps. The order of turns is a
list in State, and a response is recorded with the name and the word of its read, the latest first (the model's choices,
log entries 1 and 10). -/
def Obligations.TurnsInterleaveAgents : Prop :=
  ∀ s : State,
    (∀ ts, s.turns = .host :: ts → step s = .next (hostStep { s with turns := ts })) ∧
    (∀ ts a name rest, s.turns = .host :: ts → s.host = .rd a name :: rest → ∃ t, step s = .next t ∧
      t.bound.lookup name = some (memRead s a).1 ∧ (∀ m, m ≠ name → t.bound.lookup m = s.bound.lookup m) ∧
      t.replies = .read name (memRead s a).1 (memRead s a).2.1 :: s.replies ∧ t.host = rest) ∧
    (∀ ts, s.turns = .reset :: ts → step s = .next (resetEvent { s with turns := ts })) ∧
    (∀ ts, s.turns = .engine :: ts → s.pend = none → step s = .next { s with turns := ts }) ∧
    (s.turns = [] → s.pend = none → step s = .next (hostStep s))

/-- R95, R61: no state makes a step stop. -/
def Obligations.EveryStepAdvances : Prop := ∀ s : State, Advances s

/-! ### Acceptance, completion and errors (spec/60_exceptions.md) -/

/-- R225. -/
def Obligations.CmdWriteAccepts : Prop :=
  ∀ (s : State) (v : Word),
    (s.busy = false → memWrite s 0x0008#16 v =
      (.okay, { s with cmd := v, pend := some v, busy := true, done := false, err := false, errcode := 0#8 })) ∧
    (s.busy = true → memWrite s 0x0008#16 v = (.okay, { s with viol := true }))

/-- R226, R35, R36: every command, in every state, completes, and how STATUS and PEND stand then. -/
def Obligations.EveryCommandCompletes : Prop :=
  ∀ (i : Instr) (s : State), ∃ t, exec i s = .next t ∧
    t.busy = false ∧ t.done = true ∧ t.pend = none ∧ (t.err = true ↔ t.errcode ≠ 0#8) ∧ t.cmd = s.cmd ∧ t.viol = s.viol

/-- R221. -/
def Obligations.CommandsRaiseOnlyTheirErrors : Prop :=
  ∀ (i : Instr) (s : State), ∃ t, exec i s = .next t ∧ t.errcode ∈ possibleCodes i ∧ (t.err = true ↔ t.errcode ≠ 0#8)

/-- R97, R202: a command leaves every register and BUF word outside its destination set (STATUS and ERRCODE apart), SKV where
it derives no schedule, the parameters, and everything around the core. -/
def Obligations.CommandsWriteOnlyTheirDestinations : Prop :=
  ∀ (i : Instr) (s : State), ∃ t, exec i s = .next t ∧
    (∀ r : Reg, destination i r = false → r ≠ .status → r ≠ .errcode → readReg t r = readReg s r) ∧
    (destination i (.buf 0) = false → t.buf = s.buf) ∧
    (destination i (.sched 0) = false → t.skv = s.skv) ∧
    t.cfg = s.cfg ∧ t.viol = s.viol ∧ t.bufEpoch = s.bufEpoch ∧ t.draws = s.draws ∧ t.host = s.host ∧ t.turns = s.turns ∧
    t.bound = s.bound ∧ t.replies = s.replies

/-- R97: what a command leaves in its destination set, and how it ends, depends on its operands alone: from two states that
agree on the operands, each word of the destination set ends the same in both, or is unchanged in both. -/
def Obligations.CommandsReadOnlyTheirOperands : Prop :=
  ∀ (i : Instr) (s s' : State), s.bufOk → s'.bufOk → AgreeOnOperands i s s' →
    ∃ t t', exec i s = .next t ∧ exec i s' = .next t' ∧ t.errcode = t'.errcode ∧
      ∀ r : Reg, destination i r = true →
        readReg t r = readReg t' r ∨ (readReg t r = readReg s r ∧ readReg t' r = readReg s' r)

/-! ### The commands' results -/

/-- R131. -/
def Obligations.KeyexpDerivesSchedule : Prop :=
  decodeWord 0x00000001#32 = .ok .keyexp ∧
  ∀ s : State, exec .keyexp s = .next { s with
    sched := expand s.key, skv := true, busy := false, done := true, pend := none, err := false, errcode := 0#8 }

/-- R120, with its corner cases and its example. -/
def Obligations.GfmulMultiplies : Prop :=
  decodeWord 0x00000002#32 = .ok .gfmul ∧
  (∀ s : State, exec .gfmul s = .next { s with
    gfP := gmul s.gfA s.gfB, busy := false, done := true, pend := none, err := false, errcode := 0#8 }) ∧
  gmul 0x80#8 0x02#8 = 0x1b#8 ∧ gmul 0xff#8 0xff#8 = 0x13#8 ∧ gmul 0x57#8 0x83#8 = 0xc1#8

/-- R141 to R144: SUBBYTES and INVSUBBYTES replace every byte through the table and change nothing else. -/
def Obligations.SubstitutionCommands : Prop :=
  ∀ s : State,
    exec .subbytes s = .next { s with
      st := s.st.map sbox, busy := false, done := true, pend := none, err := false, errcode := 0#8 } ∧
    exec .invsubbytes s = .next { s with
      st := s.st.map invSbox, busy := false, done := true, pend := none, err := false, errcode := 0#8 }

/-- R145 to R148: SHIFTROWS and INVSHIFTROWS, as the byte permutations the rules give. -/
def Obligations.RotationCommands : Prop :=
  ∀ s : State,
    exec .shiftrows s = .next { s with
      st := #v[s.st[0], s.st[5], s.st[10], s.st[15], s.st[4], s.st[9], s.st[14], s.st[3],
               s.st[8], s.st[13], s.st[2], s.st[7], s.st[12], s.st[1], s.st[6], s.st[11]]
      busy := false, done := true, pend := none, err := false, errcode := 0#8 } ∧
    exec .invshiftrows s = .next { s with
      st := #v[s.st[0], s.st[13], s.st[10], s.st[7], s.st[4], s.st[1], s.st[14], s.st[11],
               s.st[8], s.st[5], s.st[2], s.st[15], s.st[12], s.st[9], s.st[6], s.st[3]]
      busy := false, done := true, pend := none, err := false, errcode := 0#8 }

/-- R149 to R152: MIXCOLUMNS and INVMIXCOLUMNS multiply every column by the rule's matrix and change nothing else. -/
def Obligations.ColumnCommands : Prop :=
  ∀ s : State, ∃ b b' : Block,
    exec .mixcolumns s = .next { s with
      st := b, busy := false, done := true, pend := none, err := false, errcode := 0#8 } ∧
    exec .invmixcolumns s = .next { s with
      st := b', busy := false, done := true, pend := none, err := false, errcode := 0#8 } ∧
    ∀ c : Fin 4,
      b[4 * c.val] = gmul 2#8 s.st[4 * c.val] ^^^ gmul 3#8 s.st[4 * c.val + 1] ^^^ gmul 1#8 s.st[4 * c.val + 2] ^^^
        gmul 1#8 s.st[4 * c.val + 3] ∧
      b[4 * c.val + 1] = gmul 1#8 s.st[4 * c.val] ^^^ gmul 2#8 s.st[4 * c.val + 1] ^^^ gmul 3#8 s.st[4 * c.val + 2] ^^^
        gmul 1#8 s.st[4 * c.val + 3] ∧
      b[4 * c.val + 2] = gmul 1#8 s.st[4 * c.val] ^^^ gmul 1#8 s.st[4 * c.val + 1] ^^^ gmul 2#8 s.st[4 * c.val + 2] ^^^
        gmul 3#8 s.st[4 * c.val + 3] ∧
      b[4 * c.val + 3] = gmul 3#8 s.st[4 * c.val] ^^^ gmul 1#8 s.st[4 * c.val + 1] ^^^ gmul 1#8 s.st[4 * c.val + 2] ^^^
        gmul 2#8 s.st[4 * c.val + 3] ∧
      b'[4 * c.val] = gmul 14#8 s.st[4 * c.val] ^^^ gmul 11#8 s.st[4 * c.val + 1] ^^^ gmul 13#8 s.st[4 * c.val + 2] ^^^
        gmul 9#8 s.st[4 * c.val + 3] ∧
      b'[4 * c.val + 1] = gmul 9#8 s.st[4 * c.val] ^^^ gmul 14#8 s.st[4 * c.val + 1] ^^^
        gmul 11#8 s.st[4 * c.val + 2] ^^^ gmul 13#8 s.st[4 * c.val + 3] ∧
      b'[4 * c.val + 2] = gmul 13#8 s.st[4 * c.val] ^^^ gmul 9#8 s.st[4 * c.val + 1] ^^^
        gmul 14#8 s.st[4 * c.val + 2] ^^^ gmul 11#8 s.st[4 * c.val + 3] ∧
      b'[4 * c.val + 3] = gmul 11#8 s.st[4 * c.val] ^^^ gmul 13#8 s.st[4 * c.val + 1] ^^^
        gmul 9#8 s.st[4 * c.val + 2] ^^^ gmul 14#8 s.st[4 * c.val + 3]

/-- R153, R154: ADDROUNDKEY r with r <= 10 and SKV = 1. -/
def Obligations.AddroundkeyXorsRoundKey : Prop :=
  ∀ (s : State) (r : Fin 11), s.skv = true → ∃ b : Block,
    exec (.addroundkey r.val) s = .next { s with
      st := b, busy := false, done := true, pend := none, err := false, errcode := 0#8 } ∧
    ∀ i : Fin 16, b[i.val] = s.st[i.val] ^^^ s.sched[16 * r.val + i.val]

/-- R154, R96, R222: ADDROUNDKEY's two errors and their order, with STATE and everything else unchanged. -/
def Obligations.AddroundkeyErrors : Prop :=
  ∀ (s : State) (r : Nat),
    (10 < r → exec (.addroundkey r) s = .next { s with
      busy := false, done := true, pend := none, err := true, errcode := 4#8 }) ∧
    (r ≤ 10 → s.skv = false → exec (.addroundkey r) s = .next { s with
      busy := false, done := true, pend := none, err := true, errcode := 5#8 })

/-- R175. -/
def Obligations.EncblockEncrypts : Prop :=
  decodeWord 0x0000000A#32 = .ok .encblock ∧
  ∀ s : State, exec .encblock s = .next { s with
    sched := expand s.key, skv := true, st := cipher s.st (expand s.key),
    busy := false, done := true, pend := none, err := false, errcode := 0#8 }

/-- R176. -/
def Obligations.DecblockDecrypts : Prop :=
  decodeWord 0x0000000B#32 = .ok .decblock ∧
  ∀ s : State, exec .decblock s = .next { s with
    sched := expand s.key, skv := true, st := invCipher s.st (expand s.key),
    busy := false, done := true, pend := none, err := false, errcode := 0#8 }

/-! ### Field and tables (spec/40_field_and_tables.md) -/

/-- A byte as a polynomial over GF(2): "bit i of a byte is the coefficient of x^i" (R111). -/
noncomputable def Sys2Proof.Machine.bytePoly (a : Byte) : Polynomial (ZMod 2) :=
  ∑ i ∈ Finset.range 8, if a.getLsbD i then Polynomial.X ^ i else 0

/-- x^8+x^4+x^3+x+1 (R111). -/
noncomputable def Sys2Proof.Machine.aesPoly : Polynomial (ZMod 2) :=
  Polynomial.X ^ 8 + Polynomial.X ^ 4 + Polynomial.X ^ 3 + Polynomial.X + 1

/-- R111: gmul is the product of polynomials modulo x^8+x^4+x^3+x+1. -/
def Obligations.GmulIsPolynomialProduct : Prop :=
  ∀ a b : Byte, bytePoly (gmul a b) = (bytePoly a * bytePoly b).modByMonic aesPoly

/-- R112. -/
def Obligations.GmulFieldLaws : Prop :=
  (∀ a b : Byte, gmul a b = gmul b a) ∧
  (∀ a b c : Byte, gmul a (gmul b c) = gmul (gmul a b) c) ∧
  (∀ a b c : Byte, gmul a (b ^^^ c) = gmul a b ^^^ gmul a c) ∧
  (∀ a : Byte, gmul a 0x01#8 = a ∧ gmul a 0x00#8 = 0x00#8) ∧
  (∀ a : Byte, gmul a 0x02#8 = xtime a) ∧
  (∀ a : Byte, gmul a 0x03#8 = xtime a ^^^ a) ∧
  (∀ a : Byte, a ≠ 0x00#8 → ∃! b : Byte, gmul a b = 0x01#8)

/-- R113. -/
def Obligations.GinvIsTheInverse : Prop :=
  ginv 0x00#8 = 0x00#8 ∧
  ∀ a : Byte, a ≠ 0x00#8 → gmul a (ginv a) = 0x01#8 ∧ ∀ b : Byte, gmul a b = 0x01#8 → b = ginv a

/-- R114, R116: SBOX equals its construction, and INV_SBOX is its inverse permutation. -/
def Obligations.SboxConstruction : Prop :=
  (∀ a : Byte, sbox a = affine (ginv a)) ∧ (∀ a : Byte, invSbox (sbox a) = a) ∧ (∀ a : Byte, sbox (invSbox a) = a)

/-- R117. -/
def Obligations.RconIsSuccessiveDoublings : Prop :=
  rcon 0 = 0x00#8 ∧ rcon 1 = 0x01#8 ∧ ∀ i : Nat, 2 ≤ i → i ≤ 10 → rcon i = xtime (rcon (i - 1))

/-! ### Key schedule and block cipher (spec/41_key_schedule.md to spec/43_block_cipher.md) -/

/-- R130, byte by byte: the key, then each word from the word four back and the word before it. -/
def Obligations.ScheduleRecurrence : Prop :=
  ∀ key : Block,
    (∀ j : Fin 16, (expand key)[j.val] = key[j.val]) ∧
    (∀ (i : Nat) (j : Nat) (h : 4 ≤ i ∧ i < 44 ∧ j < 4), i % 4 ≠ 0 →
      (expand key)[4 * i + j]'(by omega) = (expand key)[4 * (i - 4) + j]'(by omega) ^^^ (expand key)[4 * (i - 1) + j]'(by omega)) ∧
    (∀ (i : Nat) (j : Nat) (h : 4 ≤ i ∧ i < 44 ∧ j < 4), i % 4 = 0 →
      (expand key)[4 * i + j]'(by omega) = (expand key)[4 * (i - 4) + j]'(by omega) ^^^
        (sbox ((expand key)[4 * (i - 1) + (j + 1) % 4]'(by omega)) ^^^ if j = 0 then rcon (i / 4) else 0x00#8))

/-- R155. -/
def Obligations.TransformInverseLaws : Prop :=
  (∀ st : Block, invMixColumns (mixColumns st) = st) ∧
  (∀ st : Block, invShiftRows (shiftRows st) = st) ∧
  (∀ st : Block, invSubBytes (subBytes st) = st) ∧
  (∀ (st : Block) (w : Schedule) (r : Fin 11), addRoundKey (addRoundKey st w r) w r = st) ∧
  (∀ st : Block, subBytes (shiftRows st) = shiftRows (subBytes st)) ∧
  (∀ st : Block, invSubBytes (invShiftRows st) = invShiftRows (invSubBytes st))

/-- R171, R172: the step at every index of the two sequences, and that each AddRoundKey step is of the round R174 gives for
its index. -/
def Obligations.SequenceRounds : Prop :=
  (encSeq.length = 40 ∧ encSeq[0]? = some (.ark 0) ∧
    (∀ r : Fin 9, encSeq[4 * r.val + 1]? = some .sub ∧ encSeq[4 * r.val + 2]? = some .shift ∧
      encSeq[4 * r.val + 3]? = some .mix ∧ encSeq[4 * r.val + 4]? = some (.ark ⟨r.val + 1, by omega⟩)) ∧
    encSeq[37]? = some .sub ∧ encSeq[38]? = some .shift ∧ encSeq[39]? = some (.ark 10)) ∧
  (decSeq.length = 40 ∧ decSeq[0]? = some (.ark 10) ∧
    (∀ r : Fin 9, decSeq[4 * r.val + 1]? = some .invShift ∧ decSeq[4 * r.val + 2]? = some .invSub ∧
      decSeq[4 * r.val + 3]? = some (.ark ⟨9 - r.val, by omega⟩) ∧ decSeq[4 * r.val + 4]? = some .invMix) ∧
    decSeq[37]? = some .invShift ∧ decSeq[38]? = some .invSub ∧ decSeq[39]? = some (.ark 0)) ∧
  (∀ (k : Fin 40) (r : Fin 11), encSeq[k.val]? = some (.ark r) → r.val = roundOfStep .enc k.val) ∧
  (∀ (k : Fin 40) (r : Fin 11), decSeq[k.val]? = some (.ark r) → r.val = roundOfStep .dec k.val)

/-- R173, R174: the sequencer that steps one transform per state has run the first n steps of its sequence after n steps,
stays at the end, and so ends at cipher or inv_cipher. -/
def Obligations.SequencerRunsTheSequence : Prop :=
  (∀ (w : Schedule) (dir : Direction) (x : Block) (n : Nat),
    runSequencer w n ⟨dir, 0, x⟩ = ⟨dir, min n 40, runSteps w ((seqOf dir).take n) x⟩) ∧
  (∀ (w : Schedule) (x : Block) (n : Nat), 40 ≤ n →
    runSequencer w n ⟨.enc, 0, x⟩ = ⟨.enc, 40, cipher x w⟩ ∧ runSequencer w n ⟨.dec, 0, x⟩ = ⟨.dec, 40, invCipher x w⟩)

/-- R177, of every schedule and not only of a derived one, and of the two commands. -/
def Obligations.DecryptionInvertsEncryption : Prop :=
  (∀ (p : Block) (w : Schedule), invCipher (cipher p w) w = p) ∧
  (∀ s : State, ∃ t u, exec .encblock s = .next t ∧ exec .decblock t = .next u ∧ u.st = s.st)

/-! ### ECB (spec/44_ecb.md) -/

/-- R191, with the value of every padding byte (R190). -/
def Obligations.PaddingLaws : Prop :=
  ∀ b : List Byte,
    (pkcs7Pad b).length = b.length + (16 - b.length % 16) ∧ (pkcs7Pad b).length % 16 = 0 ∧ 0 < (pkcs7Pad b).length ∧
    b.length < (pkcs7Pad b).length ∧ (pkcs7Pad b).length / 16 = b.length / 16 + 1 ∧
    ∀ i (h : i < (pkcs7Pad b).length), b.length ≤ i → (pkcs7Pad b)[i] = BitVec.ofNat 8 (16 - b.length % 16)

/-- R192: the check finds P exactly when the sequence ends in P bytes of value P with P in 1..16. -/
def Obligations.PaddingCheckFindsPadding : Prop :=
  ∀ (d : List Byte) (p : Nat), 0 < d.length → d.length % 16 = 0 →
    (pkcs7Check d = some p ↔ 1 ≤ p ∧ p ≤ 16 ∧ ∃ body, d = body ++ List.replicate p (BitVec.ofNat 8 p))

/-- R195, R197: ECBENC with LEN < BUF_SIZE. -/
def Obligations.EcbencEncryptsBuffer : Prop :=
  ∀ s : State, s.bufOk → s.len.toNat < s.cfg.bufSize → ∃ (m : Memory) (t : State),
    exec .ecbenc s = .next t ∧
    t = { s with
      buf := m, sched := expand s.key, skv := true,
      outlen := BitVec.ofNat 32 (s.len.toNat + (16 - s.len.toNat % 16)),
      busy := false, done := true, pend := none, err := false, errcode := 0#8 } ∧
    t.outlen.toNat = s.len.toNat + (16 - s.len.toNat % 16) ∧ t.outlen.toNat ≤ s.cfg.bufSize ∧
    t.bufBytes t.outlen.toNat = ecbEncryptBytes (s.bufBytes s.len.toNat) s.key ∧
    ∀ i, t.outlen.toNat ≤ i → t.bufByte i = s.bufByte i

/-- R196, R202: ECBENC with LEN >= BUF_SIZE. -/
def Obligations.EcbencOverflow : Prop :=
  ∀ s : State, s.cfg.bufSize ≤ s.len.toNat → exec .ecbenc s = .next { s with
    outlen := 0#32, busy := false, done := true, pend := none, err := true, errcode := 6#8 }

/-- R199, R200, R222: ECBDEC's three checks before decryption, in their order, with nothing but OUTLEN written. -/
def Obligations.EcbdecEarlyErrors : Prop :=
  ∀ s : State,
    (s.cfg.bufSize < s.len.toNat → exec .ecbdec s = .next { s with
      outlen := 0#32, busy := false, done := true, pend := none, err := true, errcode := 6#8 }) ∧
    (s.len.toNat ≤ s.cfg.bufSize → s.len.toNat % 16 ≠ 0 → exec .ecbdec s = .next { s with
      outlen := 0#32, busy := false, done := true, pend := none, err := true, errcode := 1#8 }) ∧
    (s.len = 0#32 → exec .ecbdec s = .next { s with
      outlen := 0#32, busy := false, done := true, pend := none, err := true, errcode := 2#8 })

/-- R198, R201: ECBDEC past its checks: every block decrypted in place whatever the padding, every byte past LEN kept, and
the outcome, OUTLEN and the recovered bytes those of ecb_decrypt_bytes. -/
def Obligations.EcbdecDecryptsAndValidates : Prop :=
  ∀ s : State, s.bufOk → 0 < s.len.toNat → s.len.toNat ≤ s.cfg.bufSize → s.len.toNat % 16 = 0 →
    ∃ (m : Memory) (t : State), exec .ecbdec s = .next t ∧
      t = { s with
        buf := m, sched := expand s.key, skv := true, outlen := t.outlen,
        busy := false, done := true, pend := none, err := t.err, errcode := t.errcode } ∧
      t.bufBytes s.len.toNat = mapBlocks (fun x => invCipher x (expand s.key)) (s.bufBytes s.len.toNat) ∧
      (∀ i, s.len.toNat ≤ i → t.bufByte i = s.bufByte i) ∧
      match ecbDecryptBytes (s.bufBytes s.len.toNat) s.key with
      | .ok (plain, n) => t.err = false ∧ t.errcode = 0#8 ∧ t.outlen = BitVec.ofNat 32 n ∧ t.bufBytes n = plain
      | .error e => e = .invalidPadding ∧ t.err = true ∧ t.errcode = 2#8 ∧ t.outlen = 0#32

/-- R205: ECBENC, then LEN set to OUTLEN, then ECBDEC, recovers the length and the bytes. -/
def Obligations.EcbRoundTrip : Prop :=
  (∀ (b : List Byte) (k : Block), ecbDecryptBytes (ecbEncryptBytes b k) k = .ok (b, b.length)) ∧
  (∀ s : State, s.bufOk → s.len.toNat < s.cfg.bufSize → ∃ t u,
    exec .ecbenc s = .next t ∧ t.outlen.toNat % 16 = 0 ∧ s.len.toNat < t.outlen.toNat ∧
    exec .ecbdec { t with len := t.outlen } = .next u ∧
    u.err = false ∧ u.errcode = 0#8 ∧ u.outlen = s.len ∧ u.bufBytes s.len.toNat = s.bufBytes s.len.toNat)

/-- R203, R204: after ECBENC each whole block of the input is its own encryption, so equal blocks give equal blocks. -/
def Obligations.EcbBlocksAreIndependent : Prop :=
  ∀ s : State, s.bufOk → s.len.toNat < s.cfg.bufSize → ∃ t, exec .ecbenc s = .next t ∧
    (∀ j, 16 * j + 16 ≤ s.len.toNat →
      readBlock t.bufEpoch t.buf j = cipher (readBlock s.bufEpoch s.buf j) (expand s.key)) ∧
    (∀ i j, 16 * i + 16 ≤ s.len.toNat → 16 * j + 16 ≤ s.len.toNat →
      (∀ n, n < 16 → s.bufByte (16 * i + n) = s.bufByte (16 * j + n)) →
      ∀ n, n < 16 → t.bufByte (16 * i + n) = t.bufByte (16 * j + n))

/-! ### The host bus (spec/20_memory.md) -/

/-- R21: an address decodes to a register exactly when it is that register's offset and the register exists. -/
def Obligations.AddressMapIsExact : Prop :=
  ∀ (c : Config) (a : Addr) (r : Reg), decodeAddr c a = some r ↔ r.present c = true ∧ a = regAddr r

/-- R65, R67, R61: the misaligned and reserved addresses get ERROR and change nothing; every other address gets OKAY. -/
def Obligations.ErrorResponsesExactly : Prop :=
  ∀ (s : State) (a : Addr) (v : Word),
    ((a.toNat % 4 ≠ 0 ∨ (0x024 ≤ a.toNat ∧ a.toNat ≤ 0x02C) ∨ (0x050 ≤ a.toNat ∧ a.toNat ≤ 0x0FC) ∨
        (0x1B0 ≤ a.toNat ∧ a.toNat ≤ 0xFFC) ∨ 0x1000 + s.cfg.bufSize ≤ a.toNat) →
      memRead s a = (0#32, .error, s) ∧ memWrite s a v = (.error, s)) ∧
    (¬(a.toNat % 4 ≠ 0 ∨ (0x024 ≤ a.toNat ∧ a.toNat ≤ 0x02C) ∨ (0x050 ≤ a.toNat ∧ a.toNat ≤ 0x0FC) ∨
        (0x1B0 ≤ a.toNat ∧ a.toNat ≤ 0xFFC) ∨ 0x1000 + s.cfg.bufSize ≤ a.toNat) →
      (memRead s a).2.1 = .okay ∧ (memWrite s a v).1 = .okay)

/-- R70, R64, R33: what each address reads while BUSY = 0, with the state unchanged. -/
def Obligations.IdleReadValues : Prop :=
  ∀ s : State, s.busy = false →
    memRead s 0x0000#16 = (0x41455331#32, .okay, s) ∧
    memRead s 0x0004#16 = (BitVec.ofNat 32 s.cfg.bufSize, .okay, s) ∧
    memRead s 0x0008#16 = (s.cmd, .okay, s) ∧
    (∃ v, memRead s 0x000C#16 = (v, .okay, s) ∧ v.getLsbD 0 = s.busy ∧ v.getLsbD 1 = s.done ∧ v.getLsbD 2 = s.err ∧
      v.getLsbD 3 = s.skv ∧ v.getLsbD 4 = s.viol ∧ v >>> 5 = 0#32) ∧
    (∃ v, memRead s 0x0010#16 = (v, .okay, s) ∧ v.toNat = s.errcode.toNat) ∧
    memRead s 0x0014#16 = (s.len, .okay, s) ∧
    memRead s 0x0018#16 = (s.outlen, .okay, s) ∧
    (∃ v, memRead s 0x001C#16 = (v, .okay, s) ∧ v.toNat = s.gfA.toNat + 256 * s.gfB.toNat) ∧
    (∃ v, memRead s 0x0020#16 = (v, .okay, s) ∧ v.toNat = s.gfP.toNat) ∧
    (∀ k : Fin 4, ∃ v, memRead s (BitVec.ofNat 16 (0x030 + 4 * k.val)) = (v, .okay, s) ∧
      ∀ j : Fin 4, v.extractLsb' (8 * j.val) 8 = s.key[4 * k.val + j.val]) ∧
    (∀ k : Fin 4, ∃ v, memRead s (BitVec.ofNat 16 (0x040 + 4 * k.val)) = (v, .okay, s) ∧
      ∀ j : Fin 4, v.extractLsb' (8 * j.val) 8 = s.st[4 * k.val + j.val]) ∧
    (∀ k : Fin 44, ∃ v, memRead s (BitVec.ofNat 16 (0x100 + 4 * k.val)) = (v, .okay, s) ∧
      ∀ j : Fin 4, v.extractLsb' (8 * j.val) 8 = s.sched[4 * k.val + j.val]) ∧
    (∀ k : Nat, 4 * k < s.cfg.bufSize → ∃ v, memRead s (BitVec.ofNat 16 (0x1000 + 4 * k)) = (v, .okay, s) ∧
      ∀ j : Fin 4, v.extractLsb' (8 * j.val) 8 = s.bufByte (4 * k + j.val))

/-- R261: reads while BUSY = 1. The drawn value is a free value (log entry 4), so a claim holds whatever it is. -/
def Obligations.BusyReadsDrawOrRead : Prop :=
  ∀ (s : State) (a : Addr) (r : Reg) (w : Word), s.busy = true → s.pend = some w → decodeAddr s.cfg a = some r →
    (∀ i, decodeWord w = .ok i → destination i r = true →
      memRead s a = (Config.busyDraw s.draws, .okay, { s with draws := s.draws + 1 })) ∧
    (∀ i, decodeWord w = .ok i → destination i r = false → memRead s a = (readReg s r, .okay, s)) ∧
    (∀ e, decodeWord w = .error e → memRead s a = (readReg s r, .okay, s)) ∧
    (r = .status ∨ r = .cmd ∨ r = .errcode ∨ r = .len ∨ r = .gfop ∨ (∃ k, r = .key k) →
      memRead s a = (readReg s r, .okay, s))

/-- R69: a read changes no state of the core; at most the model's own count of draws moves on. -/
def Obligations.ReadsHaveNoSideEffects : Prop :=
  ∀ (s : State) (a : Addr), ∃ n, (memRead s a).2.2 = { s with draws := n }

/-- R260, R68: writes while BUSY = 1, to each kind of register and to the addresses of none. -/
def Obligations.BusyWritesAreDropped : Prop :=
  (∀ (s : State) (a : Addr) (v : Word), s.busy = true → decodeAddr s.cfg a = none → memWrite s a v = (.error, s)) ∧
  ∀ (s : State) (a : Addr) (r : Reg) (v : Word), s.busy = true → decodeAddr s.cfg a = some r →
    ((r = .cmd ∨ r = .len ∨ r = .gfop ∨ (∃ k, r = .key k) ∨ (∃ k, r = .state k) ∨ ∃ k, r = .buf k) →
      memWrite s a v = (.okay, { s with viol := true })) ∧
    ((r = .id ∨ r = .param ∨ r = .errcode ∨ r = .outlen ∨ r = .gfres ∨ ∃ k, r = .sched k) →
      memWrite s a v = (.okay, s)) ∧
    (r = .status → memWrite s a v = (.okay, writeStatus s v))

/-- R68: a write to a read-only register, idle or busy. -/
def Obligations.ReadOnlyWritesIgnored : Prop :=
  ∀ (s : State) (v : Word),
    memWrite s 0x0000#16 v = (.okay, s) ∧ memWrite s 0x0004#16 v = (.okay, s) ∧ memWrite s 0x0010#16 v = (.okay, s) ∧
    memWrite s 0x0018#16 v = (.okay, s) ∧ memWrite s 0x0020#16 v = (.okay, s) ∧
    ∀ k : Fin 44, memWrite s (BitVec.ofNat 16 (0x100 + 4 * k.val)) v = (.okay, s)

/-- R33, R265: a write of STATUS, idle or busy. -/
def Obligations.StatusWriteClearsBits : Prop :=
  ∀ (s : State) (v : Word), memWrite s 0x000C#16 v =
    (.okay, { s with done := s.done && !v.getLsbD 1, viol := s.viol && !v.getLsbD 4 })

/-- R71: what a write stores while BUSY = 0, byte by byte, and that nothing else changes but SKV at a KEYk write (R262). -/
def Obligations.IdleWritesStore : Prop :=
  ∀ (s : State) (v : Word), s.bufOk → s.busy = false →
    memWrite s 0x0014#16 v = (.okay, { s with len := v }) ∧
    memWrite s 0x001C#16 v = (.okay, { s with gfA := v.extractLsb' 0 8, gfB := v.extractLsb' 8 8 }) ∧
    (∀ k : Fin 4, ∃ b : Block,
      memWrite s (BitVec.ofNat 16 (0x030 + 4 * k.val)) v = (.okay, { s with key := b, skv := false }) ∧
      ∀ i : Fin 16, b[i.val] = if i.val / 4 = k.val then v.extractLsb' (8 * (i.val % 4)) 8 else s.key[i.val]) ∧
    (∀ k : Fin 4, ∃ b : Block,
      memWrite s (BitVec.ofNat 16 (0x040 + 4 * k.val)) v = (.okay, { s with st := b }) ∧
      ∀ i : Fin 16, b[i.val] = if i.val / 4 = k.val then v.extractLsb' (8 * (i.val % 4)) 8 else s.st[i.val]) ∧
    (∀ k : Nat, 4 * k < s.cfg.bufSize → ∃ t : State,
      memWrite s (BitVec.ofNat 16 (0x1000 + 4 * k)) v = (.okay, t) ∧ t = { s with buf := t.buf } ∧
      ∀ i, t.bufByte i = if i / 4 = k then v.extractLsb' (8 * (i % 4)) 8 else s.bufByte i)

/-- R64: a word written to KEYk, STATEk, LEN or a BUF word while BUSY = 0 reads back as it was written, and every other
such word reads as before. -/
def Obligations.WordsReadBack : Prop :=
  ∀ (s : State) (v : Word) (r : Reg), s.bufOk → s.busy = false → r.present s.cfg = true →
    (r = .len ∨ (∃ k, r = .key k) ∨ (∃ k, r = .state k) ∨ ∃ k, r = .buf k) →
    ∃ t, memWrite s (regAddr r) v = (.okay, t) ∧ memRead t (regAddr r) = (v, .okay, t) ∧
      ∀ r' : Reg, r' ≠ r → r' ≠ .status → readReg t r' = readReg s r'

/-- R47: reserved register bits read as 0, and writes to them are ignored. -/
def Obligations.ReservedBitsReadZero : Prop :=
  (∀ s : State, readReg s .status >>> 5 = 0#32 ∧ readReg s .errcode >>> 8 = 0#32 ∧ readReg s .gfop >>> 16 = 0#32 ∧
    readReg s .gfres >>> 8 = 0#32) ∧
  (∀ (s : State) (v : Word), memWrite s 0x000C#16 v = memWrite s 0x000C#16 (v &&& 0x1F#32)) ∧
  (∀ (s : State) (v : Word), memWrite s 0x001C#16 v = memWrite s 0x001C#16 (v &&& 0xFFFF#32)) ∧
  (∀ (s : State) (v : Word), memWrite s 0x0010#16 v = (.okay, s) ∧ memWrite s 0x0020#16 v = (.okay, s))

/-! ### Reset (spec/70_reset_and_hazards.md) -/

/-- The values of R251, of a state whose BUF is the draws of its epoch. -/
def Sys2Proof.Machine.ResetValues (t : State) : Prop :=
  (∀ i : Fin 16, t.key[i.val] = 0#8) ∧ (∀ i : Fin 16, t.st[i.val] = 0#8) ∧ (∀ i : Fin 176, t.sched[i.val] = 0#8) ∧
  t.skv = false ∧ t.gfA = 0#8 ∧ t.gfB = 0#8 ∧ t.gfP = 0#8 ∧ t.len = 0#32 ∧ t.outlen = 0#32 ∧ t.cmd = 0#32 ∧
  readReg t .status = 0#32 ∧ t.errcode = 0#8 ∧ t.pend = none ∧ (∀ i, t.bufByte i = Config.bufDraw t.bufEpoch i) ∧
  readReg t .id = 0x41455331#32 ∧ readReg t .param = BitVec.ofNat 32 t.cfg.bufSize

/-- R251, R252: the state of the machine at power-on and after a RESET event, a pending command being abandoned. That the
parameters, the HOST's program, the turns, the bound names and the recorded responses stay, and which draws a reset takes, is the model's
choice (log entries 1, 3 and 5). -/
def Obligations.ResetLeavesResetValues : Prop :=
  ResetValues State.reset ∧
  ∀ (s : State) (ts : List Turn), s.turns = .reset :: ts → ∃ t, step s = .next t ∧ ResetValues t ∧ t.cfg = s.cfg ∧
    t.bufEpoch = s.bufEpoch + 1 ∧ t.host = s.host ∧ t.turns = ts ∧
    t.bound = s.bound ∧ t.replies = s.replies

/-! ### The whole machine -/

/-- R46, and with it that ERRCODE is a code of R220 and BUF is in canonical form: kept by every step from every state. -/
def Obligations.InvariantsKeptByEveryStep : Prop :=
  ∀ s t : State, s.Inv → step s = .next t → t.Inv

/-- R46 at reset. -/
def Obligations.InvariantsHoldAtReset : Prop := State.reset.Inv

/-- R25: which steps change SKV. It is set only by the completion of a schedule-deriving command, and cleared only by an
accepted KEYk write or RESET. -/
def Obligations.SkvChangesOnlyAsStated : Prop :=
  ∀ s t : State, step s = .next t →
    (s.skv = true → t.skv = false →
      nextTurn s = .reset ∨
      (nextTurn s = .host ∧ s.busy = false ∧ ∃ k v rest, s.host = .wr (regAddr (.key k)) v :: rest)) ∧
    (s.skv = false → t.skv = true →
      nextTurn s = .engine ∧ ∃ w, s.pend = some w ∧
        (decodeWord w = .ok .keyexp ∨ decodeWord w = .ok .encblock ∨ decodeWord w = .ok .decblock ∨
          decodeWord w = .ok .ecbenc ∨ decodeWord w = .ok .ecbdec))

/-- R24, R22: SCHED is replaced only as a whole by expand(KEY) at a completion, or by RESET; and KEY only by the HOST or
by RESET. -/
def Obligations.KeyAndScheduleChangeOnlyAsStated : Prop :=
  ∀ s t : State, step s = .next t →
    (t.sched ≠ s.sched → nextTurn s = .reset ∨ (nextTurn s = .engine ∧ t.sched = expand s.key)) ∧
    (t.key ≠ s.key → nextTurn s = .reset ∨
      (nextTurn s = .host ∧ s.busy = false ∧ t.skv = false ∧ ∃ k v rest, s.host = .wr (regAddr (.key k)) v :: rest))

/-- R32, R8: no step changes the parameters. -/
def Obligations.ParametersNeverChange : Prop :=
  ∀ s t : State, step s = .next t → t.cfg = s.cfg

/-- R226, R260: a HOST step while BUSY = 1 changes no operand, no result and nothing of the pending command; of the core's
state it can change only DONE and VIOL. -/
def Obligations.PendingOperandsAreStable : Prop :=
  ∀ s : State, s.busy = true → ∃ done viol host draws bound replies,
    hostStep s = { s with
      done := done, viol := viol, host := host, draws := draws, bound := bound, replies := replies }

/-- R226: "the result equals the command applied to the state at acceptance": for every number of HOST steps between
acceptance and completion, and whatever the HOST's program does in them, VIOL apart. The order of turns is a list in State
(the model's choice, log entry 1). -/
def Obligations.ResultIsThatAtAcceptance : Prop :=
  ∀ (n : Nat) (s : State) (w : Word) (i : Instr) (ts : List Turn),
    s.busy = true → s.pend = some w → decodeWord w = .ok i → s.turns = List.replicate n .host ++ .engine :: ts →
    ∃ t u, Host.Core.run Sys2Proof.core (n + 1) s = .next t ∧ exec i s = .next u ∧ AgreeOnCore t u

/-- R266, R252: a pending command ends, by its completion or by RESET, after at most one step more than the order of turns is
long; and where no RESET is in that order it ends by its completion, with the command's own result, or with
ILLEGAL_COMMAND for an illegal word. The bound rests on the model's choice that the ENGINE goes first when no order is given
(log entry 1). -/
def Obligations.PendingCommandEnds : Prop :=
  (∀ s : State, s.pend ≠ none →
    ∃ k t, k ≤ s.turns.length + 1 ∧ Host.Core.run Sys2Proof.core k s = .next t ∧ t.pend = none) ∧
  (∀ (s : State) (w : Word), s.busy = true → s.pend = some w → Turn.reset ∉ s.turns →
    ∃ k t, k ≤ s.turns.length + 1 ∧ Host.Core.run Sys2Proof.core k s = .next t ∧
      t.busy = false ∧ t.done = true ∧ t.pend = none ∧
      (∀ i, decodeWord w = .ok i → ∃ u, exec i s = .next u ∧ AgreeOnCore t u) ∧
      (∀ e, decodeWord w = .error e → AgreeOnCore t (completeIllegal s)))

/-- R101, R102, R103: RUN issued while the core is idle, with n polls before the completion: the POLL stays until the
completion, ends at the first read after it, and the core is then as the command leaves it. The order of turns and the
record of responses are the model's (log entries 1 and 10). -/
def Obligations.RunWaitsForCompletion : Prop :=
  ∀ (n : Nat) (s : State) (i : Instr) (p : List HostOp) (ts : List Turn),
    i.wellFormed = true → s.busy = false → s.pend = none → s.host = hostRun i ++ p →
    s.turns = List.replicate (n + 1) .host ++ ([.engine, .host] ++ ts) →
    ∃ t u, Host.Core.run Sys2Proof.core (n + 3) s = .next t ∧ exec i (accept s (encode i)) = .next u ∧
      AgreeOnCore t u ∧ t.viol = s.viol ∧ t.host = p ∧ t.turns = ts ∧ t.bound.lookup "t" = some (statusWord u) ∧
      t.replies.head? = some (Reply.read "t" (statusWord u) .okay)
end

