-- ==== Sys2Proof/Laws/Memory.lean ====
section
/-! SUPPORT. BUF: what a byte reads as after each memory operation, and that every memory operation keeps the
canonical form and the range of indexes (spec/10_state.md R40). -/

namespace Sys2Proof.Machine

/-- An index written reads as the byte written; every other index keeps what it held. -/
theorem Memory.lookup_write (m : Memory) (i : Nat) (b : Byte) (j : Nat) (h : Memory.wf m) :
    Memory.lookup (Memory.write m i b) j = if i = j then some b else Memory.lookup m j := by
  induction m with
  | nil => simp [Memory.write, Memory.lookup]
  | cons c m ih =>
    obtain ⟨k, c⟩ := c
    have hm : Memory.wf m := (List.pairwise_cons.mp h).2
    by_cases h1 : i < k
    · simp [Memory.write, Memory.lookup, h1]
    · by_cases h2 : i = k
      · subst h2
        by_cases h3 : i = j <;> simp [Memory.write, Memory.lookup, h3]
      · simp only [Memory.write, if_neg h1, if_neg h2, Memory.lookup, ih hm]
        by_cases h3 : k = j
        · rw [if_pos h3, if_neg (by omega), if_pos h3]
        · rw [if_neg h3, if_neg h3]

/-- What the indexes of a written memory are. -/
theorem Memory.mem_write {m : Memory} {i : Nat} {b : Byte} {c : Host.Cell} (h : c ∈ m.write i b) : c.1 = i ∨ c ∈ m := by
  induction m with
  | nil => simp [Memory.write] at h; exact .inl (by simp [h])
  | cons d m ih =>
    obtain ⟨k, d⟩ := d
    simp only [Memory.write] at h
    split_ifs at h with h1 h2
    · rcases List.mem_cons.mp h with rfl | h
      · exact .inl rfl
      · exact .inr h
    · rcases List.mem_cons.mp h with rfl | h
      · exact .inl rfl
      · exact .inr (List.mem_cons_of_mem _ h)
    · rcases List.mem_cons.mp h with rfl | h
      · exact .inr (List.mem_cons_self ..)
      · exact (ih h).imp_right (List.mem_cons_of_mem _)

/-- A write keeps the canonical form. -/
theorem Memory.wf_write {m : Memory} (h : m.wf) (i : Nat) (b : Byte) : (m.write i b).wf := by
  induction m with
  | nil => simp [Memory.write, Memory.wf]
  | cons d m ih =>
    obtain ⟨k, d⟩ := d
    obtain ⟨hk, hm⟩ := List.pairwise_cons.mp h
    simp only [Memory.write]
    split_ifs with h1 h2
    · exact List.pairwise_cons.mpr ⟨fun c hc => by
        rcases List.mem_cons.mp hc with rfl | hc
        · exact h1
        · exact Nat.lt_trans h1 (hk c hc), h⟩
    · subst h2; exact List.pairwise_cons.mpr ⟨hk, hm⟩
    · refine List.pairwise_cons.mpr ⟨fun c hc => ?_, ih hm⟩
      rcases Memory.mem_write hc with hc | hc
      · simp only [hc]; omega
      · exact hk c hc

/-- Consecutive writes keep the canonical form. -/
theorem Memory.wf_writeBytes {m : Memory} (h : m.wf) (i : Nat) (bs : List Byte) : (m.writeBytes i bs).wf := by
  induction bs generalizing m i with
  | nil => exact h
  | cons b bs ih => exact ih (Memory.wf_write h i b) (i + 1)

/-- The indexes of a memory after consecutive writes. -/
theorem Memory.mem_writeBytes {m : Memory} {i : Nat} {bs : List Byte} {c : Host.Cell} (h : c ∈ m.writeBytes i bs) :
    (i ≤ c.1 ∧ c.1 < i + bs.length) ∨ c ∈ m := by
  induction bs generalizing m i with
  | nil => exact .inr h
  | cons b bs ih =>
    rcases ih h with h | h
    · simp only [List.length_cons]; omega
    · rcases Memory.mem_write h with h | h
      · simp only [List.length_cons]; omega
      · exact .inr h

/-- One byte after a write. -/
theorem Memory.read_write {m : Memory} (h : m.wf) (e i j : Nat) (b : Byte) :
    (m.write i b).read e j = if i = j then b else m.read e j := by
  simp only [Memory.read, Memory.lookup_write m i b j h]
  split_ifs <;> rfl

/-- One byte after consecutive writes. -/
theorem Memory.read_writeBytes {m : Memory} (h : m.wf) (e i : Nat) (bs : List Byte) (j : Nat) :
    (m.writeBytes i bs).read e j = if i ≤ j ∧ j < i + bs.length then bs.getD (j - i) 0#8 else m.read e j := by
  induction bs generalizing m i with
  | nil => simp only [Memory.writeBytes, List.length_nil]; rw [if_neg (by omega)]
  | cons b bs ih =>
    simp only [Memory.writeBytes, ih (Memory.wf_write h i b), Memory.read_write h, List.length_cons]
    by_cases h1 : i + 1 ≤ j ∧ j < i + 1 + bs.length
    · rw [if_pos h1, if_pos (by omega), show j - i = (j - (i + 1)) + 1 by omega]; rfl
    · rw [if_neg h1]
      by_cases h2 : i = j
      · subst h2; rw [if_pos rfl, if_pos (by omega)]; simp
      · rw [if_neg h2, if_neg (by omega)]

/-- The block pass keeps the canonical form. -/
theorem wf_cryptBlocks (f : Block → Block) (e n : Nat) {m : Memory} (h : m.wf) : (cryptBlocks f e n m).wf := by
  induction n with
  | zero => exact h
  | succ n ih => exact Memory.wf_writeBytes ih _ _

/-- The block pass over n blocks writes no index at or past 16n. -/
theorem mem_cryptBlocks {f : Block → Block} {e n : Nat} {m : Memory} {c : Host.Cell} (h : c ∈ cryptBlocks f e n m) :
    c.1 < 16 * n ∨ c ∈ m := by
  induction n with
  | zero => exact .inr h
  | succ n ih =>
    rcases Memory.mem_writeBytes h with h | h
    · simp only [Vector.length_toList] at h; omega
    · rcases ih h with h | h
      · omega
      · exact .inr h

/-- The block pass, byte by byte: a byte of block k < n is that byte of f of the block's old bytes, every other byte is
kept (R203: the order of the blocks does not show). -/
theorem read_cryptBlocks (f : Block → Block) (e n : Nat) {m : Memory} (h : m.wf) (j : Nat) :
    (cryptBlocks f e n m).read e j =
      if j < 16 * n then (f (readBlock e m (j / 16)))[j % 16] else m.read e j := by
  induction n generalizing j with
  | zero => simp [cryptBlocks]
  | succ n ih =>
    have hblock : readBlock e (cryptBlocks f e n m) n = readBlock e m n := by
      refine congrArg Vector.ofFn (funext fun i => ?_)
      rw [ih, if_neg (by omega)]
    simp only [cryptBlocks, writeBlock, Memory.read_writeBytes (wf_cryptBlocks f e n h), hblock, ih,
      Vector.length_toList]
    by_cases h1 : 16 * n ≤ j ∧ j < 16 * n + 16
    · rw [if_pos h1, if_pos (by omega)]
      have hd : j / 16 = n := by omega
      have hm : j - 16 * n = j % 16 := by omega
      simp [hd, hm, List.getD_eq_getElem?_getD, Nat.mod_lt]
    · rw [if_neg h1]
      by_cases h2 : j < 16 * n
      · rw [if_pos h2, if_pos (by omega)]
      · rw [if_neg h2, if_neg (by omega)]

end Sys2Proof.Machine
end

