-- ==== Sys2Proof/Laws/State.lean ====
section
/-! SUPPORT. One lemma per field for each named update of the state, so that no proof unfolds a record update. -/

namespace Sys2Proof.Machine

@[simp] theorem accept_cfg (s : State) (v : Word) : (accept s v).cfg = s.cfg := rfl
@[simp] theorem accept_key (s : State) (v : Word) : (accept s v).key = s.key := rfl
@[simp] theorem accept_st (s : State) (v : Word) : (accept s v).st = s.st := rfl
@[simp] theorem accept_sched (s : State) (v : Word) : (accept s v).sched = s.sched := rfl
@[simp] theorem accept_skv (s : State) (v : Word) : (accept s v).skv = s.skv := rfl
@[simp] theorem accept_gfA (s : State) (v : Word) : (accept s v).gfA = s.gfA := rfl
@[simp] theorem accept_gfB (s : State) (v : Word) : (accept s v).gfB = s.gfB := rfl
@[simp] theorem accept_gfP (s : State) (v : Word) : (accept s v).gfP = s.gfP := rfl
@[simp] theorem accept_len (s : State) (v : Word) : (accept s v).len = s.len := rfl
@[simp] theorem accept_outlen (s : State) (v : Word) : (accept s v).outlen = s.outlen := rfl
@[simp] theorem accept_cmd (s : State) (v : Word) : (accept s v).cmd = v := rfl
@[simp] theorem accept_busy (s : State) (v : Word) : (accept s v).busy = true := rfl
@[simp] theorem accept_done (s : State) (v : Word) : (accept s v).done = false := rfl
@[simp] theorem accept_err (s : State) (v : Word) : (accept s v).err = false := rfl
@[simp] theorem accept_viol (s : State) (v : Word) : (accept s v).viol = s.viol := rfl
@[simp] theorem accept_errcode (s : State) (v : Word) : (accept s v).errcode = 0x00#8 := rfl
@[simp] theorem accept_pend (s : State) (v : Word) : (accept s v).pend = some v := rfl
@[simp] theorem accept_buf (s : State) (v : Word) : (accept s v).buf = s.buf := rfl
@[simp] theorem accept_bufEpoch (s : State) (v : Word) : (accept s v).bufEpoch = s.bufEpoch := rfl
@[simp] theorem accept_draws (s : State) (v : Word) : (accept s v).draws = s.draws := rfl
@[simp] theorem accept_host (s : State) (v : Word) : (accept s v).host = s.host := rfl
@[simp] theorem accept_turns (s : State) (v : Word) : (accept s v).turns = s.turns := rfl
@[simp] theorem accept_bound (s : State) (v : Word) : (accept s v).bound = s.bound := rfl
@[simp] theorem accept_replies (s : State) (v : Word) : (accept s v).replies = s.replies := rfl

@[simp] theorem completeOk_cfg (s : State) : (completeOk s).cfg = s.cfg := rfl
@[simp] theorem completeOk_key (s : State) : (completeOk s).key = s.key := rfl
@[simp] theorem completeOk_st (s : State) : (completeOk s).st = s.st := rfl
@[simp] theorem completeOk_sched (s : State) : (completeOk s).sched = s.sched := rfl
@[simp] theorem completeOk_skv (s : State) : (completeOk s).skv = s.skv := rfl
@[simp] theorem completeOk_gfA (s : State) : (completeOk s).gfA = s.gfA := rfl
@[simp] theorem completeOk_gfB (s : State) : (completeOk s).gfB = s.gfB := rfl
@[simp] theorem completeOk_gfP (s : State) : (completeOk s).gfP = s.gfP := rfl
@[simp] theorem completeOk_len (s : State) : (completeOk s).len = s.len := rfl
@[simp] theorem completeOk_outlen (s : State) : (completeOk s).outlen = s.outlen := rfl
@[simp] theorem completeOk_cmd (s : State) : (completeOk s).cmd = s.cmd := rfl
@[simp] theorem completeOk_busy (s : State) : (completeOk s).busy = false := rfl
@[simp] theorem completeOk_done (s : State) : (completeOk s).done = true := rfl
@[simp] theorem completeOk_err (s : State) : (completeOk s).err = false := rfl
@[simp] theorem completeOk_viol (s : State) : (completeOk s).viol = s.viol := rfl
@[simp] theorem completeOk_errcode (s : State) : (completeOk s).errcode = 0x00#8 := rfl
@[simp] theorem completeOk_pend (s : State) : (completeOk s).pend = none := rfl
@[simp] theorem completeOk_buf (s : State) : (completeOk s).buf = s.buf := rfl
@[simp] theorem completeOk_bufEpoch (s : State) : (completeOk s).bufEpoch = s.bufEpoch := rfl
@[simp] theorem completeOk_draws (s : State) : (completeOk s).draws = s.draws := rfl
@[simp] theorem completeOk_host (s : State) : (completeOk s).host = s.host := rfl
@[simp] theorem completeOk_turns (s : State) : (completeOk s).turns = s.turns := rfl
@[simp] theorem completeOk_bound (s : State) : (completeOk s).bound = s.bound := rfl
@[simp] theorem completeOk_replies (s : State) : (completeOk s).replies = s.replies := rfl

@[simp] theorem raiseError_cfg (e : ErrorCode) (s : State) : (raiseError e s).cfg = s.cfg := rfl
@[simp] theorem raiseError_key (e : ErrorCode) (s : State) : (raiseError e s).key = s.key := rfl
@[simp] theorem raiseError_st (e : ErrorCode) (s : State) : (raiseError e s).st = s.st := rfl
@[simp] theorem raiseError_sched (e : ErrorCode) (s : State) : (raiseError e s).sched = s.sched := rfl
@[simp] theorem raiseError_skv (e : ErrorCode) (s : State) : (raiseError e s).skv = s.skv := rfl
@[simp] theorem raiseError_gfA (e : ErrorCode) (s : State) : (raiseError e s).gfA = s.gfA := rfl
@[simp] theorem raiseError_gfB (e : ErrorCode) (s : State) : (raiseError e s).gfB = s.gfB := rfl
@[simp] theorem raiseError_gfP (e : ErrorCode) (s : State) : (raiseError e s).gfP = s.gfP := rfl
@[simp] theorem raiseError_len (e : ErrorCode) (s : State) : (raiseError e s).len = s.len := rfl
@[simp] theorem raiseError_outlen (e : ErrorCode) (s : State) : (raiseError e s).outlen = s.outlen := rfl
@[simp] theorem raiseError_cmd (e : ErrorCode) (s : State) : (raiseError e s).cmd = s.cmd := rfl
@[simp] theorem raiseError_busy (e : ErrorCode) (s : State) : (raiseError e s).busy = false := rfl
@[simp] theorem raiseError_done (e : ErrorCode) (s : State) : (raiseError e s).done = true := rfl
@[simp] theorem raiseError_err (e : ErrorCode) (s : State) : (raiseError e s).err = true := rfl
@[simp] theorem raiseError_viol (e : ErrorCode) (s : State) : (raiseError e s).viol = s.viol := rfl
@[simp] theorem raiseError_errcode (e : ErrorCode) (s : State) : (raiseError e s).errcode = errorCode e := rfl
@[simp] theorem raiseError_pend (e : ErrorCode) (s : State) : (raiseError e s).pend = none := rfl
@[simp] theorem raiseError_buf (e : ErrorCode) (s : State) : (raiseError e s).buf = s.buf := rfl
@[simp] theorem raiseError_bufEpoch (e : ErrorCode) (s : State) : (raiseError e s).bufEpoch = s.bufEpoch := rfl
@[simp] theorem raiseError_draws (e : ErrorCode) (s : State) : (raiseError e s).draws = s.draws := rfl
@[simp] theorem raiseError_host (e : ErrorCode) (s : State) : (raiseError e s).host = s.host := rfl
@[simp] theorem raiseError_turns (e : ErrorCode) (s : State) : (raiseError e s).turns = s.turns := rfl
@[simp] theorem raiseError_bound (e : ErrorCode) (s : State) : (raiseError e s).bound = s.bound := rfl
@[simp] theorem raiseError_replies (e : ErrorCode) (s : State) : (raiseError e s).replies = s.replies := rfl

@[simp] theorem raiseEcb_cfg (e : ErrorCode) (s : State) : (raiseEcb e s).cfg = s.cfg := rfl
@[simp] theorem raiseEcb_key (e : ErrorCode) (s : State) : (raiseEcb e s).key = s.key := rfl
@[simp] theorem raiseEcb_st (e : ErrorCode) (s : State) : (raiseEcb e s).st = s.st := rfl
@[simp] theorem raiseEcb_sched (e : ErrorCode) (s : State) : (raiseEcb e s).sched = s.sched := rfl
@[simp] theorem raiseEcb_skv (e : ErrorCode) (s : State) : (raiseEcb e s).skv = s.skv := rfl
@[simp] theorem raiseEcb_gfA (e : ErrorCode) (s : State) : (raiseEcb e s).gfA = s.gfA := rfl
@[simp] theorem raiseEcb_gfB (e : ErrorCode) (s : State) : (raiseEcb e s).gfB = s.gfB := rfl
@[simp] theorem raiseEcb_gfP (e : ErrorCode) (s : State) : (raiseEcb e s).gfP = s.gfP := rfl
@[simp] theorem raiseEcb_len (e : ErrorCode) (s : State) : (raiseEcb e s).len = s.len := rfl
@[simp] theorem raiseEcb_outlen (e : ErrorCode) (s : State) : (raiseEcb e s).outlen = 0x00000000#32 := rfl
@[simp] theorem raiseEcb_cmd (e : ErrorCode) (s : State) : (raiseEcb e s).cmd = s.cmd := rfl
@[simp] theorem raiseEcb_busy (e : ErrorCode) (s : State) : (raiseEcb e s).busy = false := rfl
@[simp] theorem raiseEcb_done (e : ErrorCode) (s : State) : (raiseEcb e s).done = true := rfl
@[simp] theorem raiseEcb_err (e : ErrorCode) (s : State) : (raiseEcb e s).err = true := rfl
@[simp] theorem raiseEcb_viol (e : ErrorCode) (s : State) : (raiseEcb e s).viol = s.viol := rfl
@[simp] theorem raiseEcb_errcode (e : ErrorCode) (s : State) : (raiseEcb e s).errcode = errorCode e := rfl
@[simp] theorem raiseEcb_pend (e : ErrorCode) (s : State) : (raiseEcb e s).pend = none := rfl
@[simp] theorem raiseEcb_buf (e : ErrorCode) (s : State) : (raiseEcb e s).buf = s.buf := rfl
@[simp] theorem raiseEcb_bufEpoch (e : ErrorCode) (s : State) : (raiseEcb e s).bufEpoch = s.bufEpoch := rfl
@[simp] theorem raiseEcb_draws (e : ErrorCode) (s : State) : (raiseEcb e s).draws = s.draws := rfl
@[simp] theorem raiseEcb_host (e : ErrorCode) (s : State) : (raiseEcb e s).host = s.host := rfl
@[simp] theorem raiseEcb_turns (e : ErrorCode) (s : State) : (raiseEcb e s).turns = s.turns := rfl
@[simp] theorem raiseEcb_bound (e : ErrorCode) (s : State) : (raiseEcb e s).bound = s.bound := rfl
@[simp] theorem raiseEcb_replies (e : ErrorCode) (s : State) : (raiseEcb e s).replies = s.replies := rfl

@[simp] theorem deriveSchedule_cfg (s : State) : (deriveSchedule s).cfg = s.cfg := rfl
@[simp] theorem deriveSchedule_key (s : State) : (deriveSchedule s).key = s.key := rfl
@[simp] theorem deriveSchedule_st (s : State) : (deriveSchedule s).st = s.st := rfl
@[simp] theorem deriveSchedule_sched (s : State) : (deriveSchedule s).sched = expand s.key := rfl
@[simp] theorem deriveSchedule_skv (s : State) : (deriveSchedule s).skv = true := rfl
@[simp] theorem deriveSchedule_gfA (s : State) : (deriveSchedule s).gfA = s.gfA := rfl
@[simp] theorem deriveSchedule_gfB (s : State) : (deriveSchedule s).gfB = s.gfB := rfl
@[simp] theorem deriveSchedule_gfP (s : State) : (deriveSchedule s).gfP = s.gfP := rfl
@[simp] theorem deriveSchedule_len (s : State) : (deriveSchedule s).len = s.len := rfl
@[simp] theorem deriveSchedule_outlen (s : State) : (deriveSchedule s).outlen = s.outlen := rfl
@[simp] theorem deriveSchedule_cmd (s : State) : (deriveSchedule s).cmd = s.cmd := rfl
@[simp] theorem deriveSchedule_busy (s : State) : (deriveSchedule s).busy = s.busy := rfl
@[simp] theorem deriveSchedule_done (s : State) : (deriveSchedule s).done = s.done := rfl
@[simp] theorem deriveSchedule_err (s : State) : (deriveSchedule s).err = s.err := rfl
@[simp] theorem deriveSchedule_viol (s : State) : (deriveSchedule s).viol = s.viol := rfl
@[simp] theorem deriveSchedule_errcode (s : State) : (deriveSchedule s).errcode = s.errcode := rfl
@[simp] theorem deriveSchedule_pend (s : State) : (deriveSchedule s).pend = s.pend := rfl
@[simp] theorem deriveSchedule_buf (s : State) : (deriveSchedule s).buf = s.buf := rfl
@[simp] theorem deriveSchedule_bufEpoch (s : State) : (deriveSchedule s).bufEpoch = s.bufEpoch := rfl
@[simp] theorem deriveSchedule_draws (s : State) : (deriveSchedule s).draws = s.draws := rfl
@[simp] theorem deriveSchedule_host (s : State) : (deriveSchedule s).host = s.host := rfl
@[simp] theorem deriveSchedule_turns (s : State) : (deriveSchedule s).turns = s.turns := rfl
@[simp] theorem deriveSchedule_bound (s : State) : (deriveSchedule s).bound = s.bound := rfl
@[simp] theorem deriveSchedule_replies (s : State) : (deriveSchedule s).replies = s.replies := rfl

@[simp] theorem writeStatus_cfg (s : State) (v : Word) : (writeStatus s v).cfg = s.cfg := rfl
@[simp] theorem writeStatus_key (s : State) (v : Word) : (writeStatus s v).key = s.key := rfl
@[simp] theorem writeStatus_st (s : State) (v : Word) : (writeStatus s v).st = s.st := rfl
@[simp] theorem writeStatus_sched (s : State) (v : Word) : (writeStatus s v).sched = s.sched := rfl
@[simp] theorem writeStatus_skv (s : State) (v : Word) : (writeStatus s v).skv = s.skv := rfl
@[simp] theorem writeStatus_gfA (s : State) (v : Word) : (writeStatus s v).gfA = s.gfA := rfl
@[simp] theorem writeStatus_gfB (s : State) (v : Word) : (writeStatus s v).gfB = s.gfB := rfl
@[simp] theorem writeStatus_gfP (s : State) (v : Word) : (writeStatus s v).gfP = s.gfP := rfl
@[simp] theorem writeStatus_len (s : State) (v : Word) : (writeStatus s v).len = s.len := rfl
@[simp] theorem writeStatus_outlen (s : State) (v : Word) : (writeStatus s v).outlen = s.outlen := rfl
@[simp] theorem writeStatus_cmd (s : State) (v : Word) : (writeStatus s v).cmd = s.cmd := rfl
@[simp] theorem writeStatus_busy (s : State) (v : Word) : (writeStatus s v).busy = s.busy := rfl
@[simp] theorem writeStatus_done (s : State) (v : Word) : (writeStatus s v).done = if v.getLsbD 1 then false else s.done := rfl
@[simp] theorem writeStatus_err (s : State) (v : Word) : (writeStatus s v).err = s.err := rfl
@[simp] theorem writeStatus_viol (s : State) (v : Word) : (writeStatus s v).viol = if v.getLsbD 4 then false else s.viol := rfl
@[simp] theorem writeStatus_errcode (s : State) (v : Word) : (writeStatus s v).errcode = s.errcode := rfl
@[simp] theorem writeStatus_pend (s : State) (v : Word) : (writeStatus s v).pend = s.pend := rfl
@[simp] theorem writeStatus_buf (s : State) (v : Word) : (writeStatus s v).buf = s.buf := rfl
@[simp] theorem writeStatus_bufEpoch (s : State) (v : Word) : (writeStatus s v).bufEpoch = s.bufEpoch := rfl
@[simp] theorem writeStatus_draws (s : State) (v : Word) : (writeStatus s v).draws = s.draws := rfl
@[simp] theorem writeStatus_host (s : State) (v : Word) : (writeStatus s v).host = s.host := rfl
@[simp] theorem writeStatus_turns (s : State) (v : Word) : (writeStatus s v).turns = s.turns := rfl
@[simp] theorem writeStatus_bound (s : State) (v : Word) : (writeStatus s v).bound = s.bound := rfl
@[simp] theorem writeStatus_replies (s : State) (v : Word) : (writeStatus s v).replies = s.replies := rfl

@[simp] theorem record_cfg (s : State) (r : Reply) : (record s r).cfg = s.cfg := rfl
@[simp] theorem record_key (s : State) (r : Reply) : (record s r).key = s.key := rfl
@[simp] theorem record_st (s : State) (r : Reply) : (record s r).st = s.st := rfl
@[simp] theorem record_sched (s : State) (r : Reply) : (record s r).sched = s.sched := rfl
@[simp] theorem record_skv (s : State) (r : Reply) : (record s r).skv = s.skv := rfl
@[simp] theorem record_gfA (s : State) (r : Reply) : (record s r).gfA = s.gfA := rfl
@[simp] theorem record_gfB (s : State) (r : Reply) : (record s r).gfB = s.gfB := rfl
@[simp] theorem record_gfP (s : State) (r : Reply) : (record s r).gfP = s.gfP := rfl
@[simp] theorem record_len (s : State) (r : Reply) : (record s r).len = s.len := rfl
@[simp] theorem record_outlen (s : State) (r : Reply) : (record s r).outlen = s.outlen := rfl
@[simp] theorem record_cmd (s : State) (r : Reply) : (record s r).cmd = s.cmd := rfl
@[simp] theorem record_busy (s : State) (r : Reply) : (record s r).busy = s.busy := rfl
@[simp] theorem record_done (s : State) (r : Reply) : (record s r).done = s.done := rfl
@[simp] theorem record_err (s : State) (r : Reply) : (record s r).err = s.err := rfl
@[simp] theorem record_viol (s : State) (r : Reply) : (record s r).viol = s.viol := rfl
@[simp] theorem record_errcode (s : State) (r : Reply) : (record s r).errcode = s.errcode := rfl
@[simp] theorem record_pend (s : State) (r : Reply) : (record s r).pend = s.pend := rfl
@[simp] theorem record_buf (s : State) (r : Reply) : (record s r).buf = s.buf := rfl
@[simp] theorem record_bufEpoch (s : State) (r : Reply) : (record s r).bufEpoch = s.bufEpoch := rfl
@[simp] theorem record_draws (s : State) (r : Reply) : (record s r).draws = s.draws := rfl
@[simp] theorem record_host (s : State) (r : Reply) : (record s r).host = s.host := rfl
@[simp] theorem record_turns (s : State) (r : Reply) : (record s r).turns = s.turns := rfl
@[simp] theorem record_bound (s : State) (r : Reply) : (record s r).bound = s.bound := rfl
@[simp] theorem record_replies (s : State) (r : Reply) : (record s r).replies = r :: s.replies := rfl

@[simp] theorem recordRead_cfg (s : State) (name : String) (rdata : Word) (resp : Resp) :
    (recordRead s name rdata resp).cfg = s.cfg := rfl
@[simp] theorem recordRead_key (s : State) (name : String) (rdata : Word) (resp : Resp) :
    (recordRead s name rdata resp).key = s.key := rfl
@[simp] theorem recordRead_st (s : State) (name : String) (rdata : Word) (resp : Resp) :
    (recordRead s name rdata resp).st = s.st := rfl
@[simp] theorem recordRead_sched (s : State) (name : String) (rdata : Word) (resp : Resp) :
    (recordRead s name rdata resp).sched = s.sched := rfl
@[simp] theorem recordRead_skv (s : State) (name : String) (rdata : Word) (resp : Resp) :
    (recordRead s name rdata resp).skv = s.skv := rfl
@[simp] theorem recordRead_gfA (s : State) (name : String) (rdata : Word) (resp : Resp) :
    (recordRead s name rdata resp).gfA = s.gfA := rfl
@[simp] theorem recordRead_gfB (s : State) (name : String) (rdata : Word) (resp : Resp) :
    (recordRead s name rdata resp).gfB = s.gfB := rfl
@[simp] theorem recordRead_gfP (s : State) (name : String) (rdata : Word) (resp : Resp) :
    (recordRead s name rdata resp).gfP = s.gfP := rfl
@[simp] theorem recordRead_len (s : State) (name : String) (rdata : Word) (resp : Resp) :
    (recordRead s name rdata resp).len = s.len := rfl
@[simp] theorem recordRead_outlen (s : State) (name : String) (rdata : Word) (resp : Resp) :
    (recordRead s name rdata resp).outlen = s.outlen := rfl
@[simp] theorem recordRead_cmd (s : State) (name : String) (rdata : Word) (resp : Resp) :
    (recordRead s name rdata resp).cmd = s.cmd := rfl
@[simp] theorem recordRead_busy (s : State) (name : String) (rdata : Word) (resp : Resp) :
    (recordRead s name rdata resp).busy = s.busy := rfl
@[simp] theorem recordRead_done (s : State) (name : String) (rdata : Word) (resp : Resp) :
    (recordRead s name rdata resp).done = s.done := rfl
@[simp] theorem recordRead_err (s : State) (name : String) (rdata : Word) (resp : Resp) :
    (recordRead s name rdata resp).err = s.err := rfl
@[simp] theorem recordRead_viol (s : State) (name : String) (rdata : Word) (resp : Resp) :
    (recordRead s name rdata resp).viol = s.viol := rfl
@[simp] theorem recordRead_errcode (s : State) (name : String) (rdata : Word) (resp : Resp) :
    (recordRead s name rdata resp).errcode = s.errcode := rfl
@[simp] theorem recordRead_pend (s : State) (name : String) (rdata : Word) (resp : Resp) :
    (recordRead s name rdata resp).pend = s.pend := rfl
@[simp] theorem recordRead_buf (s : State) (name : String) (rdata : Word) (resp : Resp) :
    (recordRead s name rdata resp).buf = s.buf := rfl
@[simp] theorem recordRead_bufEpoch (s : State) (name : String) (rdata : Word) (resp : Resp) :
    (recordRead s name rdata resp).bufEpoch = s.bufEpoch := rfl
@[simp] theorem recordRead_draws (s : State) (name : String) (rdata : Word) (resp : Resp) :
    (recordRead s name rdata resp).draws = s.draws := rfl
@[simp] theorem recordRead_host (s : State) (name : String) (rdata : Word) (resp : Resp) :
    (recordRead s name rdata resp).host = s.host := rfl
@[simp] theorem recordRead_turns (s : State) (name : String) (rdata : Word) (resp : Resp) :
    (recordRead s name rdata resp).turns = s.turns := rfl
@[simp] theorem recordRead_bound (s : State) (name : String) (rdata : Word) (resp : Resp) :
    (recordRead s name rdata resp).bound = s.bound.bind name rdata := rfl
@[simp] theorem recordRead_replies (s : State) (name : String) (rdata : Word) (resp : Resp) :
    (recordRead s name rdata resp).replies = .read name rdata resp :: s.replies := rfl

@[simp] theorem dropTurn_cfg (s : State) : (dropTurn s).cfg = s.cfg := rfl
@[simp] theorem dropTurn_key (s : State) : (dropTurn s).key = s.key := rfl
@[simp] theorem dropTurn_st (s : State) : (dropTurn s).st = s.st := rfl
@[simp] theorem dropTurn_sched (s : State) : (dropTurn s).sched = s.sched := rfl
@[simp] theorem dropTurn_skv (s : State) : (dropTurn s).skv = s.skv := rfl
@[simp] theorem dropTurn_gfA (s : State) : (dropTurn s).gfA = s.gfA := rfl
@[simp] theorem dropTurn_gfB (s : State) : (dropTurn s).gfB = s.gfB := rfl
@[simp] theorem dropTurn_gfP (s : State) : (dropTurn s).gfP = s.gfP := rfl
@[simp] theorem dropTurn_len (s : State) : (dropTurn s).len = s.len := rfl
@[simp] theorem dropTurn_outlen (s : State) : (dropTurn s).outlen = s.outlen := rfl
@[simp] theorem dropTurn_cmd (s : State) : (dropTurn s).cmd = s.cmd := rfl
@[simp] theorem dropTurn_busy (s : State) : (dropTurn s).busy = s.busy := rfl
@[simp] theorem dropTurn_done (s : State) : (dropTurn s).done = s.done := rfl
@[simp] theorem dropTurn_err (s : State) : (dropTurn s).err = s.err := rfl
@[simp] theorem dropTurn_viol (s : State) : (dropTurn s).viol = s.viol := rfl
@[simp] theorem dropTurn_errcode (s : State) : (dropTurn s).errcode = s.errcode := rfl
@[simp] theorem dropTurn_pend (s : State) : (dropTurn s).pend = s.pend := rfl
@[simp] theorem dropTurn_buf (s : State) : (dropTurn s).buf = s.buf := rfl
@[simp] theorem dropTurn_bufEpoch (s : State) : (dropTurn s).bufEpoch = s.bufEpoch := rfl
@[simp] theorem dropTurn_draws (s : State) : (dropTurn s).draws = s.draws := rfl
@[simp] theorem dropTurn_host (s : State) : (dropTurn s).host = s.host := rfl
@[simp] theorem dropTurn_turns (s : State) : (dropTurn s).turns = s.turns.tail := rfl
@[simp] theorem dropTurn_bound (s : State) : (dropTurn s).bound = s.bound := rfl
@[simp] theorem dropTurn_replies (s : State) : (dropTurn s).replies = s.replies := rfl

@[simp] theorem resetEvent_cfg (s : State) : (resetEvent s).cfg = s.cfg := rfl
@[simp] theorem resetEvent_key (s : State) : (resetEvent s).key = Vector.replicate 16 0x00#8 := rfl
@[simp] theorem resetEvent_st (s : State) : (resetEvent s).st = Vector.replicate 16 0x00#8 := rfl
@[simp] theorem resetEvent_sched (s : State) : (resetEvent s).sched = Vector.replicate 176 0x00#8 := rfl
@[simp] theorem resetEvent_skv (s : State) : (resetEvent s).skv = false := rfl
@[simp] theorem resetEvent_gfA (s : State) : (resetEvent s).gfA = 0x00#8 := rfl
@[simp] theorem resetEvent_gfB (s : State) : (resetEvent s).gfB = 0x00#8 := rfl
@[simp] theorem resetEvent_gfP (s : State) : (resetEvent s).gfP = 0x00#8 := rfl
@[simp] theorem resetEvent_len (s : State) : (resetEvent s).len = 0x00000000#32 := rfl
@[simp] theorem resetEvent_outlen (s : State) : (resetEvent s).outlen = 0x00000000#32 := rfl
@[simp] theorem resetEvent_cmd (s : State) : (resetEvent s).cmd = 0x00000000#32 := rfl
@[simp] theorem resetEvent_busy (s : State) : (resetEvent s).busy = false := rfl
@[simp] theorem resetEvent_done (s : State) : (resetEvent s).done = false := rfl
@[simp] theorem resetEvent_err (s : State) : (resetEvent s).err = false := rfl
@[simp] theorem resetEvent_viol (s : State) : (resetEvent s).viol = false := rfl
@[simp] theorem resetEvent_errcode (s : State) : (resetEvent s).errcode = 0x00#8 := rfl
@[simp] theorem resetEvent_pend (s : State) : (resetEvent s).pend = none := rfl
@[simp] theorem resetEvent_buf (s : State) : (resetEvent s).buf = [] := rfl
@[simp] theorem resetEvent_bufEpoch (s : State) : (resetEvent s).bufEpoch = s.bufEpoch + 1 := rfl
@[simp] theorem resetEvent_draws (s : State) : (resetEvent s).draws = s.draws := rfl
@[simp] theorem resetEvent_host (s : State) : (resetEvent s).host = s.host := rfl
@[simp] theorem resetEvent_turns (s : State) : (resetEvent s).turns = s.turns := rfl
@[simp] theorem resetEvent_bound (s : State) : (resetEvent s).bound = s.bound := rfl
@[simp] theorem resetEvent_replies (s : State) : (resetEvent s).replies = s.replies := rfl

/-! The HOST's names (R100). -/

/-- A name bound reads as the word bound to it, every other name as before. -/
theorem Bindings.lookup_bind (b : Bindings) (n : String) (v : Word) (m : String) :
    (b.bind n v).lookup m = if m = n then some v else b.lookup m := by
  induction b with
  | nil => by_cases h : n = m <;> simp [Bindings.bind, Bindings.lookup, h, eq_comm]
  | cons c b ih =>
    obtain ⟨k, u⟩ := c
    by_cases hk : k = n
    · subst hk
      by_cases hm : k = m
      · simp [Bindings.bind, Bindings.lookup, hm]
      · simp [Bindings.bind, Bindings.lookup, hm, Ne.symm hm]
    · by_cases hm : k = m
      · subst hm; simp [Bindings.bind, Bindings.lookup, hk]
      · simp [Bindings.bind, Bindings.lookup, hk, hm, ih]

/-- Binding a name adds no other name. -/
theorem Bindings.mem_bind {b : Bindings} {n : String} {v : Word} {m : String}
    (h : m ∈ (b.bind n v).map Prod.fst) : m = n ∨ m ∈ b.map Prod.fst := by
  induction b with
  | nil => simpa [Bindings.bind] using h
  | cons c b ih =>
    obtain ⟨k, u⟩ := c
    by_cases hk : k = n
    · subst hk; simpa [Bindings.bind] using h
    · simp only [Bindings.bind, if_neg hk, List.map_cons, List.mem_cons] at h ⊢
      rcases h with h | h
      · exact .inr (.inl h)
      · exact (ih h).imp_right .inr

/-- Binding keeps that no name stands twice. -/
theorem Bindings.nodup_bind {b : Bindings} (h : (b.map Prod.fst).Nodup) (n : String) (v : Word) :
    ((b.bind n v).map Prod.fst).Nodup := by
  induction b with
  | nil => simp [Bindings.bind]
  | cons c b ih =>
    obtain ⟨k, u⟩ := c
    obtain ⟨hk, hb⟩ := List.nodup_cons.mp h
    by_cases hn : k = n
    · subst hn; simpa [Bindings.bind] using h
    · simp only [Bindings.bind, if_neg hn, List.map_cons]
      refine List.nodup_cons.mpr ⟨fun hm => ?_, ih hb⟩
      rcases Bindings.mem_bind hm with rfl | hm
      · exact hn rfl
      · exact hk hm

/-! What no accepted write changes (R71). -/

@[simp] theorem writeReg_cfg (s : State) (v : Word) (r : Reg) : (writeReg s v r).cfg = s.cfg := by
  cases r <;> simp [writeReg]
@[simp] theorem writeReg_sched (s : State) (v : Word) (r : Reg) : (writeReg s v r).sched = s.sched := by
  cases r <;> simp [writeReg]
@[simp] theorem writeReg_gfP (s : State) (v : Word) (r : Reg) : (writeReg s v r).gfP = s.gfP := by
  cases r <;> simp [writeReg]
@[simp] theorem writeReg_outlen (s : State) (v : Word) (r : Reg) : (writeReg s v r).outlen = s.outlen := by
  cases r <;> simp [writeReg]
@[simp] theorem writeReg_bufEpoch (s : State) (v : Word) (r : Reg) : (writeReg s v r).bufEpoch = s.bufEpoch := by
  cases r <;> simp [writeReg]
@[simp] theorem writeReg_draws (s : State) (v : Word) (r : Reg) : (writeReg s v r).draws = s.draws := by
  cases r <;> simp [writeReg]
@[simp] theorem writeReg_host (s : State) (v : Word) (r : Reg) : (writeReg s v r).host = s.host := by
  cases r <;> simp [writeReg]
@[simp] theorem writeReg_turns (s : State) (v : Word) (r : Reg) : (writeReg s v r).turns = s.turns := by
  cases r <;> simp [writeReg]
@[simp] theorem writeReg_bound (s : State) (v : Word) (r : Reg) : (writeReg s v r).bound = s.bound := by
  cases r <;> simp [writeReg]
@[simp] theorem writeReg_replies (s : State) (v : Word) (r : Reg) : (writeReg s v r).replies = s.replies := by
  cases r <;> simp [writeReg]

end Sys2Proof.Machine
end

