-- ==== Sys2Proof/Laws/Exec.lean ====
section
/-! SUPPORT. Once for all commands: everything a command can do. The invariants and frames are read off these lemmas. -/

namespace Sys2Proof.Machine

/-- Consecutive writes below BUF_SIZE keep BUF in order. -/
theorem bufOk_writeBytes {s : State} (h : s.bufOk) {i : Nat} {bs : List Byte} (hi : i + bs.length ≤ s.cfg.bufSize) :
    Memory.wf (s.buf.writeBytes i bs) ∧ ∀ c ∈ s.buf.writeBytes i bs, c.1 < s.cfg.bufSize :=
  ⟨Memory.wf_writeBytes h.1 i bs, fun c hc => by
    rcases Memory.mem_writeBytes hc with hc | hc
    · omega
    · exact h.2 c hc⟩

/-- The block pass over blocks below BUF_SIZE keeps BUF in order. -/
theorem bufOk_cryptBlocks {f : Block → Block} {e n N : Nat} {m : Memory} (h : Memory.wf m ∧ ∀ c ∈ m, c.1 < N)
    (hn : 16 * n ≤ N) : Memory.wf (cryptBlocks f e n m) ∧ ∀ c ∈ cryptBlocks f e n m, c.1 < N :=
  ⟨wf_cryptBlocks f e n h.1, fun c hc => by
    rcases mem_cryptBlocks hc with hc | hc
    · omega
    · exact h.2 c hc⟩

/-- The number of padding bytes (R190). -/
theorem padCount_range (n : Nat) : 1 ≤ padCount n ∧ padCount n ≤ 16 ∧ (n + padCount n) % 16 = 0 := by
  simp only [padCount]; omega

@[simp] theorem padding_length (n : Nat) : (padding n).length = padCount n := by simp [padding]

/-- The padded length fits exactly when LEN < BUF_SIZE (R196). -/
theorem padded_le (c : Config) (l : Nat) (h : l < c.bufSize) : l + padCount l ≤ c.bufSize := by
  simp only [padCount, Config.bufSize] at *; omega

/-- What a command can do: it ends in a completion, before which it has written at most STATE, SCHED with SKV, GF_P,
OUTLEN and BUF; SCHED and SKV only as a whole derivation (R24, R25); and BUF stays in order. -/
theorem exec_cases (i : Instr) (s : State) : ∃ st sched skv gfP outlen buf outcome,
    exec i s = .next (finish { s with st := st, sched := sched, skv := skv, gfP := gfP, outlen := outlen, buf := buf }
      outcome) ∧
    ((sched = s.sched ∧ skv = s.skv) ∨ (sched = expand s.key ∧ skv = true)) ∧
    (s.bufOk → Memory.wf buf ∧ ∀ c ∈ buf, c.1 < s.cfg.bufSize) := by
  cases i with
  | keyexp => exact ⟨_, _, _, _, _, _, _, rfl, .inr ⟨rfl, rfl⟩, id⟩
  | gfmul => exact ⟨_, _, _, _, _, _, _, rfl, .inl ⟨rfl, rfl⟩, id⟩
  | subbytes => exact ⟨_, _, _, _, _, _, _, rfl, .inl ⟨rfl, rfl⟩, id⟩
  | invsubbytes => exact ⟨_, _, _, _, _, _, _, rfl, .inl ⟨rfl, rfl⟩, id⟩
  | shiftrows => exact ⟨_, _, _, _, _, _, _, rfl, .inl ⟨rfl, rfl⟩, id⟩
  | invshiftrows => exact ⟨_, _, _, _, _, _, _, rfl, .inl ⟨rfl, rfl⟩, id⟩
  | mixcolumns => exact ⟨_, _, _, _, _, _, _, rfl, .inl ⟨rfl, rfl⟩, id⟩
  | invmixcolumns => exact ⟨_, _, _, _, _, _, _, rfl, .inl ⟨rfl, rfl⟩, id⟩
  | addroundkey rnd =>
    simp only [exec, execAddroundkey]
    split_ifs
    · exact ⟨_, _, _, _, _, _, _, rfl, .inl ⟨rfl, rfl⟩, id⟩
    · exact ⟨_, _, _, _, _, _, _, rfl, .inl ⟨rfl, rfl⟩, id⟩
    · exact ⟨_, _, _, _, _, _, _, rfl, .inl ⟨rfl, rfl⟩, id⟩
  | encblock => exact ⟨_, _, _, _, _, _, _, rfl, .inr ⟨rfl, rfl⟩, id⟩
  | decblock => exact ⟨_, _, _, _, _, _, _, rfl, .inr ⟨rfl, rfl⟩, id⟩
  | ecbenc =>
    simp only [exec, execEcbenc]
    split_ifs with h
    · exact ⟨_, _, _, _, _, _, _, rfl, .inl ⟨rfl, rfl⟩, id⟩
    · have hfit := padded_le s.cfg s.len.toNat (by omega)
      refine ⟨_, _, _, _, _, _, _, rfl, .inr ⟨rfl, rfl⟩, fun hb => bufOk_cryptBlocks (bufOk_writeBytes hb ?_) ?_⟩
      · rw [padding_length]; exact hfit
      · omega
  | ecbdec =>
    simp only [exec, execEcbdec]
    split_ifs with h1 h2 h3
    · exact ⟨_, _, _, _, _, _, _, rfl, .inl ⟨rfl, rfl⟩, id⟩
    · exact ⟨_, _, _, _, _, _, _, rfl, .inl ⟨rfl, rfl⟩, id⟩
    · exact ⟨_, _, _, _, _, _, _, rfl, .inl ⟨rfl, rfl⟩, id⟩
    · split
      · exact ⟨_, _, _, _, _, _, _, rfl, .inr ⟨rfl, rfl⟩, fun hb => bufOk_cryptBlocks hb (by omega)⟩
      · exact ⟨_, _, _, _, _, _, _, rfl, .inr ⟨rfl, rfl⟩, fun hb => bufOk_cryptBlocks hb (by omega)⟩

end Sys2Proof.Machine
end

