-- ==== Sys2Proof/Laws/Ecb.lean ====
section
/-! SUPPORT. BUF against the byte-sequence functions: what the padding write, the block pass and the padding check do,
said of the list of bytes BUF reads as (spec/44_ecb.md R190 to R198). -/

namespace Sys2Proof.Machine

/-- A whole block of the bytes BUF reads as is that block of BUF. -/
theorem blockAt_reads (e n : Nat) (m : Memory) (j : Nat) (h : 16 * j + 16 ≤ n) :
    blockAt ((List.range n).map (m.read e)) j = readBlock e m j := by
  apply Vector.ext
  intro i hi
  simp only [blockAt, readBlock, Vector.getElem_ofFn, List.getD_eq_getElem?_getD]
  rw [List.getElem?_map, List.getElem?_range (by omega)]
  rfl

/-- Sixteen bytes a block. -/
theorem range_blocks (n : Nat) (g : Nat → Byte) :
    (List.range (16 * n)).map g = (List.range n).flatMap fun j => (List.range 16).map fun i => g (16 * j + i) := by
  induction n with
  | zero => rfl
  | succ n ih =>
    rw [List.range_succ (n := n), List.flatMap_append, ← ih, show 16 * (n + 1) = 16 * n + 16 by ring, List.range_add]
    simp

/-- The block pass over BUF is `mapBlocks` of the bytes it read as (R193, R194). -/
theorem cryptBlocks_reads (f : Block → Block) (e n : Nat) {m : Memory} (h : m.wf) :
    (List.range (16 * n)).map ((cryptBlocks f e n m).read e) = mapBlocks f ((List.range (16 * n)).map (m.read e)) := by
  have hl : ((List.range (16 * n)).map (m.read e)).length / 16 = n := by simp
  rw [mapBlocks, hl, range_blocks]
  apply List.flatMap_congr
  intro j hj
  have hj : j < n := List.mem_range.mp hj
  rw [blockAt_reads _ _ _ _ (by omega)]
  apply List.ext_getElem
  · simp
  · intro i h1 h2
    simp only [List.length_map, List.length_range] at h1
    simp only [List.getElem_map, List.getElem_range, Vector.getElem_toList]
    rw [read_cryptBlocks _ _ _ h, if_pos (by omega)]
    simp only [show (16 * j + i) / 16 = j by omega, show (16 * j + i) % 16 = i by omega]

/-- The padding written behind the input is `pkcs7_pad` of the bytes the input read as (R190). -/
theorem padding_reads (e l : Nat) {m : Memory} (h : m.wf) :
    (List.range (l + padCount l)).map ((m.writeBytes l (padding l)).read e) =
      pkcs7Pad ((List.range l).map (m.read e)) := by
  rw [List.range_add, List.map_append, pkcs7Pad]
  simp only [List.length_map, List.length_range]
  congr 1
  · apply List.map_congr_left
    intro i hi
    have := List.mem_range.mp hi
    rw [Memory.read_writeBytes h, if_neg (by omega)]
  · apply List.ext_getElem
    · simp
    · intro i h1 h2
      simp only [List.length_map, List.length_range] at h1
      simp only [List.getElem_map, List.getElem_range]
      rw [Memory.read_writeBytes h, if_pos (by simp; omega)]
      simp [h1, List.getD_eq_getElem?_getD]

/-- The check over BUF is the check of the list of bytes it reads as (R192). -/
theorem paddingCheck_reads (n : Nat) (h : 16 ≤ n) (g : Nat → Byte) :
    paddingCheck n g = pkcs7Check ((List.range n).map g) := by
  have hg : ∀ i, i < n → ((List.range n).map g).getD i 0#8 = g i := fun i hi => by
    rw [List.getD_eq_getElem?_getD, List.getElem?_map, List.getElem?_range hi]
    rfl
  simp only [pkcs7Check, paddingCheck, List.length_map, List.length_range, hg (n - 1) (by omega)]
  by_cases hp : (g (n - 1)).toNat = 0 ∨ (g (n - 1)).toNat > 16
  · rw [if_pos hp, if_pos hp]
  · rw [if_neg hp, if_neg hp]
    have hall : ((List.range (g (n - 1)).toNat).all fun k => g (n - (g (n - 1)).toNat + k) == g (n - 1)) =
        ((List.range (g (n - 1)).toNat).all fun k =>
          ((List.range n).map g).getD (n - (g (n - 1)).toNat + k) 0#8 == g (n - 1)) := by
      rw [Bool.eq_iff_iff, List.all_eq_true, List.all_eq_true]
      constructor <;> intro h k hk <;> have hk' := List.mem_range.mp hk
      · rw [hg _ (by omega)]; exact h k hk
      · rw [← hg _ (by omega)]; exact h k hk
    rw [hall]

/-- `mapBlocks` keeps whole blocks. -/
@[simp] theorem mapBlocks_length (f : Block → Block) (x : List Byte) :
    (mapBlocks f x).length = 16 * (x.length / 16) := by
  simp [mapBlocks, List.length_flatMap]
  ring

end Sys2Proof.Machine
end

