-- ==== Sys2Proof/Laws/Operands.lean ====
section
/-! SUPPORT. Byte packing, the matrix view and the register map: the small laws of Machine/Operands.lean. -/

namespace Sys2Proof.Machine

/-- Byte `j` of a packed word is the byte packed there (R64). -/
theorem byteOf_packBytes (b0 b1 b2 b3 : Byte) :
    byteOf (packBytes b0 b1 b2 b3) 0 = b0 ∧ byteOf (packBytes b0 b1 b2 b3) 1 = b1 ∧
    byteOf (packBytes b0 b1 b2 b3) 2 = b2 ∧ byteOf (packBytes b0 b1 b2 b3) 3 = b3 := by
  refine ⟨?_, ?_, ?_, ?_⟩ <;>
  · apply BitVec.eq_of_getLsbD_eq
    intro i hi
    simp only [byteOf, packBytes, BitVec.getLsbD_extractLsb', BitVec.getLsbD_or, BitVec.getLsbD_shiftLeft,
      BitVec.getLsbD_setWidth]
    interval_cases i <;> simp [BitVec.getLsbD_of_ge]

/-- A word is packed from its own bytes (R64). -/
theorem packBytes_byteOf (v : Word) : packBytes (byteOf v 0) (byteOf v 1) (byteOf v 2) (byteOf v 3) = v := by
  apply BitVec.eq_of_getLsbD_eq
  intro i hi
  simp only [byteOf, packBytes, BitVec.getLsbD_extractLsb', BitVec.getLsbD_or, BitVec.getLsbD_shiftLeft,
    BitVec.getLsbD_setWidth]
  interval_cases i <;> simp

/-- The matrix view of a block made from a matrix (R11). -/
@[simp] theorem cell_ofMatrix (f : Fin 4 → Fin 4 → Byte) (r c : Fin 4) : cell (ofMatrix f) r c = f r c := by
  simp only [cell, ofMatrix, Vector.getElem_ofFn]
  congr 1 <;> apply Fin.ext <;> simp only <;> omega

/-- Two blocks with the same matrix view are equal (R11). -/
theorem block_ext {a b : Block} (h : ∀ r c, cell a r c = cell b r c) : a = b := by
  apply Vector.ext
  intro i hi
  have := h ⟨i % 4, by omega⟩ ⟨i / 4, by omega⟩
  simpa only [cell, show 4 * (i / 4) + i % 4 = i by omega] using this

/-- A stored word, byte by byte (R64). -/
theorem getElem_storeWord (b : Block) (k : Nat) (v : Word) (i : Nat) (h : i < 16) :
    (storeWord b k v)[i] = if i / 4 = k then byteOf v (i % 4) else b[i] := by
  simp [storeWord]

/-- The word of a block after a bus word is stored in it (R64). -/
theorem packWord_storeWord (b : Block) (k : Nat) (v : Word) (j : Nat) (h : 4 * j + 3 < 16) :
    packWord 16 (storeWord b k v) j h = if j = k then v else packWord 16 b j h := by
  simp only [packWord, getElem_storeWord, show 4 * j / 4 = j by omega, show (4 * j + 1) / 4 = j by omega,
    show (4 * j + 2) / 4 = j by omega, show (4 * j + 3) / 4 = j by omega, show 4 * j % 4 = 0 by omega,
    show (4 * j + 1) % 4 = 1 by omega, show (4 * j + 2) % 4 = 2 by omega, show (4 * j + 3) % 4 = 3 by omega]
  split_ifs
  · exact packBytes_byteOf v
  · rfl

/-- BUF_SIZE is in the range of R8. -/
theorem bufSize_range (c : Config) : 16 ≤ c.bufSize ∧ c.bufSize ≤ 61440 ∧ c.bufSize % 16 = 0 := by
  have := c.lastBlock.isLt
  simp only [Config.bufSize]
  omega

/-- What an address decodes to exists and stands at that address (R21). -/
theorem decodeAddr_some {c : Config} {a : Addr} {r : Reg} (h : decodeAddr c a = some r) :
    r.present c = true ∧ a = regAddr r := by
  suffices h' : r.present c = true ∧ a.toNat = regOffset r from
    ⟨h'.1, BitVec.eq_of_toNat_eq (by simp [regAddr, ← h'.2])⟩
  unfold decodeAddr at h
  generalize a.toNat = n at h ⊢
  unfold decodeOffset at h
  split_ifs at h with h1 h2
  · obtain ⟨m, rfl⟩ : ∃ m, n = 4 * m := ⟨n / 4, by omega⟩
    have hm : m ≤ 8 := by omega
    rw [show 4 * m / 4 = m by omega] at h
    clear h1 h2
    interval_cases m <;> (simp [controlRegs] at h; subst h; exact ⟨rfl, rfl⟩)
  · cases h; exact ⟨rfl, by simp only [regOffset]; omega⟩
  · cases h; exact ⟨rfl, by simp only [regOffset]; omega⟩
  · cases h; exact ⟨rfl, by simp only [regOffset]; omega⟩
  · cases h; exact ⟨by simp only [Reg.present, decide_eq_true_eq]; omega, by simp only [regOffset]; omega⟩

end Sys2Proof.Machine
end

