-- ==== Sys2Proof/Laws/PerInstr.lean ====
section
/-! SUPPORT. The family RowOfWord: for every command, the word it is encoded as is one of its own row of the opcode
map (spec/30_encoding.md R92, R99). -/

namespace Sys2Proof.Laws.RowOfWord

/-- The word of a well-formed command encodes the row that bears the command's mnemonic. -/
def Statement (i : Instr) : Prop :=
  i.wellFormed = true → ∃ r ∈ opcodeTable, r.mnemonic = i.mnemonic ∧ r.covers (encode i) = true

theorem keyexp : Statement .keyexp := fun _ => by decide
theorem gfmul : Statement .gfmul := fun _ => by decide
theorem subbytes : Statement .subbytes := fun _ => by decide
theorem invsubbytes : Statement .invsubbytes := fun _ => by decide
theorem shiftrows : Statement .shiftrows := fun _ => by decide
theorem invshiftrows : Statement .invshiftrows := fun _ => by decide
theorem mixcolumns : Statement .mixcolumns := fun _ => by decide
theorem invmixcolumns : Statement .invmixcolumns := fun _ => by decide
theorem addroundkey (rnd : Nat) : Statement (.addroundkey rnd) := fun h => by
  have h : rnd ≤ 15 := by simpa [Instr.wellFormed] using h
  interval_cases rnd <;> decide
theorem encblock : Statement .encblock := fun _ => by decide
theorem decblock : Statement .decblock := fun _ => by decide
theorem ecbenc : Statement .ecbenc := fun _ => by decide
theorem ecbdec : Statement .ecbdec := fun _ => by decide

end Sys2Proof.Laws.RowOfWord
end

