-- ==== Sys2Proof/Laws/Step.lean ====
section
/-! SUPPORT. Everything a transaction, a HOST step and a step of the machine can do. -/

namespace Sys2Proof.Machine

/-- A read leaves the state as it is, but for the count of draws where it is a read of R261. -/
theorem memRead_cases (s : State) (a : Addr) :
    memRead s a = (0x00000000#32, .error, s) ∧ decodeAddr s.cfg a = none ∨
    (∃ r, decodeAddr s.cfg a = some r ∧ (s.busy && pendingDestination s.pend r) = false ∧
      memRead s a = (readReg s r, .okay, s)) ∨
    (∃ r, decodeAddr s.cfg a = some r ∧ (s.busy && pendingDestination s.pend r) = true ∧
      memRead s a = (Config.busyDraw s.draws, .okay, { s with draws := s.draws + 1 })) := by
  cases h : decodeAddr s.cfg a with
  | none => exact .inl ⟨by simp [memRead, h], rfl⟩
  | some r =>
    cases hb : (s.busy && pendingDestination s.pend r) with
    | false => exact .inr (.inl ⟨r, rfl, hb, by simp [memRead, h, hb]⟩)
    | true => exact .inr (.inr ⟨r, rfl, hb, by simp [memRead, h, hb]⟩)

/-- The five things a write can do (R71). -/
theorem memWrite_cases (s : State) (a : Addr) (v : Word) :
    decodeAddr s.cfg a = none ∧ memWrite s a v = (.error, s) ∨
    decodeAddr s.cfg a = some .status ∧ memWrite s a v = (.okay, writeStatus s v) ∨
    (∃ r, decodeAddr s.cfg a = some r ∧ readOnly r = true ∧ memWrite s a v = (.okay, s)) ∨
    (∃ r, decodeAddr s.cfg a = some r ∧ r ≠ .status ∧ readOnly r = false ∧ s.busy = true ∧
      memWrite s a v = (.okay, { s with viol := true })) ∨
    (∃ r, decodeAddr s.cfg a = some r ∧ r ≠ .status ∧ readOnly r = false ∧ s.busy = false ∧
      memWrite s a v = (.okay, writeReg s v r)) := by
  cases h : decodeAddr s.cfg a with
  | none => exact .inl ⟨rfl, by simp [memWrite, h]⟩
  | some r =>
    by_cases hs : r = .status
    · subst hs; exact .inr (.inl ⟨rfl, by simp [memWrite, h, writeReg]⟩)
    · cases hr : readOnly r with
      | true => exact .inr (.inr (.inl ⟨r, rfl, hr, by simp [memWrite, h, hs, hr]⟩))
      | false =>
        cases hb : s.busy with
        | true => exact .inr (.inr (.inr (.inl ⟨r, rfl, hs, hr, rfl, by simp [memWrite, h, hs, hr, hb]⟩)))
        | false => exact .inr (.inr (.inr (.inr ⟨r, rfl, hs, hr, rfl, by simp [memWrite, h, hs, hr, hb]⟩)))

/-- The four things a HOST step can do (R100, R101). -/
theorem hostStep_cases (s : State) :
    (s.host = [] ∧ hostStep s = s) ∨
    (∃ a v rest, s.host = .wr a v :: rest ∧
      hostStep s = record (memWrite { s with host := rest } a v).2 (.write (memWrite { s with host := rest } a v).1)) ∨
    (∃ a name rest, s.host = .rd a name :: rest ∧
      hostStep s = recordRead (memRead { s with host := rest } a).2.2 name (memRead { s with host := rest } a).1
        (memRead { s with host := rest } a).2.1) ∨
    (∃ a mask value rest, s.host = .poll a mask value :: rest ∧
      hostStep s = recordRead { (memRead s a).2.2 with
          host := if (memRead s a).1 &&& mask = value then rest else s.host } "t" (memRead s a).1 (memRead s a).2.1) := by
  cases h : s.host with
  | nil => exact .inl ⟨rfl, by simp [hostStep, h]⟩
  | cons op rest =>
    cases op with
    | wr a v => exact .inr (.inl ⟨a, v, rest, rfl, by simp [hostStep, h]⟩)
    | rd a name => exact .inr (.inr (.inl ⟨a, name, rest, rfl, by simp [hostStep, h]⟩))
    | poll a mask value => exact .inr (.inr (.inr ⟨a, mask, value, rest, rfl, by simp [hostStep, h]⟩))

/-- The five things a step can do (R15, R77, R226, R250). -/
theorem step_cases {s t : State} (h : step s = .next t) :
    (nextTurn s = .host ∧ t = hostStep (dropTurn s)) ∨
    (nextTurn s = .reset ∧ t = resetEvent (dropTurn s)) ∨
    (nextTurn s = .engine ∧ s.pend = none ∧ t = dropTurn s) ∨
    (∃ w i, nextTurn s = .engine ∧ s.pend = some w ∧ decodeWord w = .ok i ∧ exec i (dropTurn s) = .next t) ∨
    (∃ w e, nextTurn s = .engine ∧ s.pend = some w ∧ decodeWord w = .error e ∧ t = completeIllegal (dropTurn s)) := by
  unfold step interleave at h
  cases hn : nextTurn s with
  | host => rw [hn] at h; exact .inl ⟨rfl, by simpa [takeTurn] using h.symm⟩
  | reset => rw [hn] at h; exact .inr (.inl ⟨rfl, by simpa [takeTurn] using h.symm⟩)
  | engine =>
    rw [hn] at h
    cases hp : s.pend with
    | none =>
      exact .inr (.inr (.inl ⟨rfl, rfl, by simpa [takeTurn, engineStep, hp] using h.symm⟩))
    | some w =>
      cases hd : decodeWord w with
      | ok i =>
        exact .inr (.inr (.inr (.inl ⟨w, i, rfl, rfl, hd, by simpa [takeTurn, engineStep, completeWord, hp, hd] using h⟩)))
      | error e =>
        exact .inr (.inr (.inr (.inr ⟨w, e, rfl, rfl, hd, by
          simpa [takeTurn, engineStep, completeWord, hp, hd] using h.symm⟩)))

/-- The invariants depend on SKV, SCHED, KEY, the STATUS flags, PEND and BUF alone, and an update that clears SKV may
change KEY. -/
theorem State.Inv.congr {s t : State} (h : s.Inv) (hskv : t.skv = true → s.skv = true ∧ t.key = s.key)
    (hsched : t.sched = s.sched) (hbusy : t.busy = s.busy) (hpend : t.pend = s.pend)
    (hdone : t.busy = true → t.done = s.done) (herr : t.err = s.err) (hcode : t.errcode = s.errcode)
    (hbuf : t.buf = s.buf) (hcfg : t.cfg = s.cfg) : t.Inv where
  schedule hk := by rw [hsched, (hskv hk).2]; exact h.schedule (hskv hk).1
  busyPend := by rw [hbusy, hpend]; exact h.busyPend
  busyClear hk := by rw [hdone hk, herr, hcode]; exact h.busyClear (hbusy ▸ hk)
  errCode := by rw [herr, hcode]; exact h.errCode
  codeRange := by rw [hcode]; exact h.codeRange
  buffer := by simp only [State.bufOk, hbuf, hcfg]; exact h.buffer

end Sys2Proof.Machine
end

