-- ==== Sys2Proof/Tests/Slice0.lean ====
section
/-! SUPPORT. The model's own tests. Expected results are the vectors of spec/95_test_vectors.md and the examples of the
rules, named at each test; then, for every obligation with hypotheses, a concrete state and operands that meet them. -/

namespace Sys2Proof.Tests

open Sys2Proof.Machine

/-! ### Helpers -/

/-- Sixteen bytes written as one hexadecimal number, byte 0 first (R9). -/
def hex16 (n : Nat) : Block := Vector.ofFn fun i : Fin 16 => BitVec.ofNat 8 (n >>> (8 * (15 - i.val)))

/-- "KAT key" of spec/95_test_vectors.md. -/
def katKey : Block := hex16 0x2b7e151628aed2a6abf7158809cf4f3c

/-- The plaintext of V1. -/
def katPlain : Block := hex16 0x3243f6a8885a308d313198a2e0370734

/-- The ciphertext of V1. -/
def katCipher : Block := hex16 0x3925841d02dc09fbdc118597196a0b32

/-- `00 01 .. 0f`. -/
def countBlock : Block := hex16 0x000102030405060708090a0b0c0d0e0f

/-- The reset state with KEY and STATE set. -/
def loaded (k x : Block) : State := { State.reset with key := k, st := x }

/-- The reset state with KEY set and bytes in BUF. -/
def buffered (k : Block) (b : List Byte) (l : Nat) : State :=
  { State.reset with key := k, buf := Memory.writeBytes [] 0 b, len := BitVec.ofNat 32 l }

/-- A state with a pending word and an order of turns. -/
def pending (w : Word) (ts : List Turn) : State := { accept State.reset w with turns := ts }

/-- What a step or a command leads to satisfies `p`. -/
def nextAnd (o : Host.Outcome State Fault Refusal) (p : State → Bool) : Bool :=
  match o with
  | .next t => p t
  | .fault _ => false
  | .refused _ => false

/-! ### Syntax, encoding, decoding (R90 to R105, V17) -/

/-- The one well-formedness check (R99): r = 16 is ill-formed, r = 15 is well-formed. -/
theorem test_wellFormed_refuses : Instr.wellFormed (.addroundkey 16) = false ∧ Instr.wellFormed (.addroundkey 15) = true := by
  decide

/-- Words written out by R90 and R92 as RSV, RND, OPC: the key and field family. -/
theorem test_decode_key_field :
    decodeWord (0#20 ++ 0b0000#4 ++ 0b00000001#8) = .ok .keyexp ∧
    decodeWord (0#20 ++ 0b0000#4 ++ 0b00000010#8) = .ok .gfmul := by decide

/-- The byte-wise and the row transforms. -/
theorem test_decode_sub_shift :
    decodeWord (0#20 ++ 0b0000#4 ++ 0b00000011#8) = .ok .subbytes ∧
    decodeWord (0#20 ++ 0b0000#4 ++ 0b00000100#8) = .ok .invsubbytes ∧
    decodeWord (0#20 ++ 0b0000#4 ++ 0b00000101#8) = .ok .shiftrows ∧
    decodeWord (0#20 ++ 0b0000#4 ++ 0b00000110#8) = .ok .invshiftrows := by decide

/-- The column transforms and the round key. -/
theorem test_decode_mix_ark :
    decodeWord (0#20 ++ 0b0000#4 ++ 0b00000111#8) = .ok .mixcolumns ∧
    decodeWord (0#20 ++ 0b0000#4 ++ 0b00001000#8) = .ok .invmixcolumns ∧
    decodeWord (0#20 ++ 0b0000#4 ++ 0b00001001#8) = .ok (.addroundkey 0) ∧
    decodeWord (0#20 ++ 0b1010#4 ++ 0b00001001#8) = .ok (.addroundkey 10) ∧
    decodeWord (0#20 ++ 0b1111#4 ++ 0b00001001#8) = .ok (.addroundkey 15) := by decide

/-- The block and the ECB commands. -/
theorem test_decode_block_ecb :
    decodeWord (0#20 ++ 0b0000#4 ++ 0b00001010#8) = .ok .encblock ∧
    decodeWord (0#20 ++ 0b0000#4 ++ 0b00001011#8) = .ok .decblock ∧
    decodeWord (0#20 ++ 0b0000#4 ++ 0b00001100#8) = .ok .ecbenc ∧
    decodeWord (0#20 ++ 0b0000#4 ++ 0b00001101#8) = .ok .ecbdec := by decide

/-- The illegal words of V17. -/
theorem test_decode_illegal :
    decodeWord 0x00000000#32 = .error .badOpcode ∧ decodeWord 0x0000000E#32 = .error .badOpcode ∧
    decodeWord 0x000000FF#32 = .error .badOpcode ∧ decodeWord 0x00000103#32 = .error .unexpectedRound ∧
    decodeWord 0x00001009#32 = .error .reservedBits ∧ decodeWord 0x8000000A#32 = .error .reservedBits := by decide

/-- Bytes in bus order (R64), and too few of them. -/
theorem test_decode_bytes :
    decodeBytes [0x09#8, 0x0A#8, 0x00#8, 0x00#8, 0x55#8] = .ok (.addroundkey 10, [0x55#8]) ∧
    decodeBytes [0x09#8, 0x0A#8, 0x00#8] = .error .truncated := by decide

/-- The table's numbering: bit 0 is the least significant bit of the word. -/
theorem test_decodeTableWord :
    decodeTableWord 32 0x00000A09 = some (.addroundkey 10) ∧ decodeTableWord 32 0x00001009 = none := by decide

/-- A placed word runs at the very next step. -/
theorem test_withFetchWord_runs :
    nextAnd (step (State.reset.withFetchWord 32 0x00000002)) (fun t => t.done && !t.err && t.cmd == 0x00000002#32) = true ∧
    nextAnd (step (State.reset.withFetchWord 32 0x00000B09)) (fun t => t.done && t.err && t.errcode == 4#8) = true := by
  decide

/-! ### The commands -/

/-- V11: words 4 and 43 of the schedule of the KAT key. -/
theorem test_keyexp :
    nextAnd (exec .keyexp (loaded katKey katPlain)) (fun t => t.skv && readReg t (.sched 4) == 0x17fefaa0#32 &&
      readReg t (.sched 43) == 0xa60c63b6#32) = true := by decide +kernel

/-- V10: products, the reduction, and the bus form of P6. -/
theorem test_gfmul :
    gmul 0x57#8 0x13#8 = 0xfe#8 ∧ gmul 0x53#8 0xca#8 = 0x01#8 ∧ gmul 0x03#8 0x80#8 = 0x9b#8 ∧
    nextAnd (exec .gfmul (writeReg State.reset 0xFFFF1357#32 .gfop)) (fun t => readReg t .gfres == 0x000000fe#32 &&
      readReg t .gfop == 0x00001357#32) = true := by decide +kernel

/-- V14. -/
theorem test_subbytes :
    nextAnd (exec .subbytes (loaded katKey countBlock)) (fun t => t.st == hex16 0x637c777bf26b6fc53001672bfed7ab76) = true := by
  decide +kernel

/-- V14. -/
theorem test_invsubbytes :
    nextAnd (exec .invsubbytes (loaded katKey countBlock))
      (fun t => t.st == hex16 0x52096ad53036a538bf40a39e81f3d7fb) = true := by
  decide +kernel

/-- V14. -/
theorem test_shiftrows :
    nextAnd (exec .shiftrows (loaded katKey countBlock))
      (fun t => t.st == hex16 0x00050a0f04090e03080d02070c01060b) = true := by
  decide +kernel

/-- V14. -/
theorem test_invshiftrows :
    nextAnd (exec .invshiftrows (loaded katKey countBlock))
      (fun t => t.st == hex16 0x000d0a0704010e0b0805020f0c090603) = true := by
  decide +kernel

/-- V15, the whole-state form. -/
theorem test_mixcolumns :
    nextAnd (exec .mixcolumns (loaded katKey (hex16 0xdb135345f20a225c01010101c6c6c6c6)))
      (fun t => t.st == hex16 0x8e4da1bc9fdc589d01010101c6c6c6c6) = true := by
  decide +kernel

/-- V15, KAT round 1. -/
theorem test_invmixcolumns :
    nextAnd (exec .invmixcolumns (loaded katKey (hex16 0x046681e5e0cb199a48f8d37a2806264c)))
      (fun t => t.st == hex16 0xd4bf5d30e0b452aeb84111f11e2798e5) = true := by
  decide +kernel

/-- V16, rows 1 and 2. -/
theorem test_addroundkey :
    nextAnd (exec (.addroundkey 0) (deriveSchedule (loaded katKey katPlain)))
      (fun t => t.st == hex16 0x193de3bea0f4e22b9ac68d2ae9f84808 && !t.err) = true ∧
    nextAnd (exec (.addroundkey 10) (deriveSchedule (loaded katKey katPlain)))
      (fun t => t.st == hex16 0xe2570f0041b41504d00e946a56540b92 && !t.err) = true := by
  decide +kernel

/-- V16, rows 4, 6 and 7: the errors, their STATUS and their priority. -/
theorem test_addroundkey_errors :
    nextAnd (exec (.addroundkey 11) { loaded katKey katPlain with skv := true })
      (fun t => t.errcode == 4#8 && statusWord t == 0x0E#32 && t.st == katPlain) = true ∧
    nextAnd (exec (.addroundkey 0) (loaded katKey katPlain))
      (fun t => t.errcode == 5#8 && statusWord t == 0x06#32 && t.st == katPlain) = true ∧
    nextAnd (exec (.addroundkey 12) (loaded katKey katPlain)) (fun t => t.errcode == 4#8) = true := by
  decide

/-- V1, the source's known-answer test. -/
theorem test_encblock :
    nextAnd (exec .encblock (loaded katKey katPlain)) (fun t => t.st == katCipher && statusWord t == 0x0A#32) = true := by
  decide +kernel

/-- V20, row 4. -/
theorem test_decblock :
    nextAnd (exec .decblock (loaded katKey katCipher)) (fun t => t.st == katPlain && statusWord t == 0x0A#32) = true := by
  decide +kernel

/-- R195, the example "hello". -/
theorem test_ecbenc :
    nextAnd (exec .ecbenc (buffered katKey [0x68#8, 0x65#8, 0x6c#8, 0x6c#8, 0x6f#8] 5))
      (fun t => t.bufBytes 16 == (hex16 0x54116e8bb5470e432b4a6debc243a7ec).toList && t.outlen == 16#32) = true := by
  decide +kernel

/-- P4: LEN = BUF_SIZE overflows, and nothing but OUTLEN, STATUS and ERRCODE is written. -/
theorem test_ecbenc_overflow :
    nextAnd (exec .ecbenc (buffered katKey [] 4096)) (fun t => t.errcode == 6#8 && t.buf == [] && !t.skv) = true := by
  decide

/-- R198, the example, with the padding bytes it leaves. -/
theorem test_ecbdec :
    nextAnd (exec .ecbdec (buffered katKey (hex16 0x54116e8bb5470e432b4a6debc243a7ec).toList 16))
      (fun t => t.bufBytes 16 == (hex16 0x68656c6c6f0b0b0b0b0b0b0b0b0b0b0b).toList && t.outlen == 5#32 && !t.err) = true := by
  decide +kernel

/-- P4: INVALID_LENGTH at 17, INVALID_PADDING at 0, BUFFER_OVERFLOW at 4097. -/
theorem test_ecbdec_errors :
    nextAnd (exec .ecbdec (buffered katKey [] 17)) (fun t => t.errcode == 1#8) = true ∧
    nextAnd (exec .ecbdec (buffered katKey [] 0)) (fun t => t.errcode == 2#8) = true ∧
    nextAnd (exec .ecbdec (buffered katKey [] 4097)) (fun t => t.errcode == 6#8) = true := by decide

/-! ### The bus, the HOST and RESET -/

/-- R64: KEY = `2b 7e 15 16 ...` reads 0x16157e2b at KEY0. -/
theorem test_packing : (memRead (loaded katKey katPlain) 0x0030#16).1 = 0x16157e2b#32 := by decide +kernel

/-- P4: the misaligned read, the reserved write and the read-only write. -/
theorem test_bus_errors :
    memRead State.reset 0x0002#16 = (0x00000000#32, .error, State.reset) ∧
    (memWrite State.reset 0x0024#16 0x1#32).1 = .error ∧ (memWrite State.reset 0x0000#16 0x0#32).1 = .okay ∧
    (memRead State.reset 0x1FFC#16).2.1 = .okay ∧ (memRead State.reset 0x2000#16).2.1 = .error := by decide +kernel

/-- P5 (b): a write of LEN while ECBDEC is pending is dropped with VIOL. -/
theorem test_busy_write :
    (memWrite (pending 0x0000000D#32 []) 0x0014#16 32#32).2.viol = true ∧
    (memWrite (pending 0x0000000D#32 []) 0x0014#16 32#32).2.len = 0#32 := by decide +kernel

/-- R101: a POLL that does not see its value stays; one that does ends. -/
theorem test_poll :
    (hostStep { pending 0x00000001#32 [] with host := [.poll 0x000C#16 0x3#32 0x2#32] }).host.length = 1 ∧
    (hostStep { State.reset with done := true, host := [.poll 0x000C#16 0x3#32 0x2#32] }).host.length = 0 := by
  decide +kernel

/-- R100: an RD binds its name, and the second RD of a name rebinds it. -/
theorem test_rd_binds :
    (hostStep { State.reset with host := [.rd (regAddr .id) "id9"] }).bound.lookup "id9" = some 0x41455331#32 ∧
    (hostStep { State.reset with bound := [("s", 1#32)], host := [.rd (regAddr .status) "s"] }).bound = [("s", 0#32)] := by
  decide +kernel

/-- The reset memory is in canonical form, and a write keeps the indexes in order. -/
theorem test_memory_wf :
    Memory.wf State.reset.buf ∧ Memory.wf (Memory.write (Memory.writeBytes [] 4 [1#8, 2#8]) 0 3#8) ∧
    Memory.write (Memory.writeBytes [] 4 [1#8, 2#8]) 5 3#8 = [(4, 1#8), (5, 3#8)] := by decide

/-- R250, R251: RESET while a command is pending abandons it. -/
theorem test_reset_abandons :
    nextAnd (step (pending 0x0000000A#32 [.reset])) (fun t => t.pend == none && !t.busy && !t.done && t.bufEpoch == 1) = true := by
  decide

/-! ### Witnesses: the hypotheses of the obligations can be met -/

/-- DecodeInvertsEncode, LegalWordsAreTheRows: the greatest round index, and a word with its row. -/
theorem witness_encoding :
    Instr.wellFormed (.addroundkey 15) = true ∧ decodeWord 0x00000F09#32 = .ok (.addroundkey 15) ∧
    ∃ r ∈ opcodeTable, r.covers 0x00000F09#32 = true := by decide

/-- IllegalWordsCompleteWithError: an illegal word, accepted and then completed. -/
theorem witness_illegal :
    decodeWord 0x00001009#32 = .error .reservedBits ∧ State.reset.busy = false ∧
    (pending 0x00001009#32 [.engine]).pend = some 0x00001009#32 ∧ (pending 0x00001009#32 [.engine]).turns = [.engine] ∧
    (pending 0x00001009#32 []).turns = [] := by
  decide

/-- TurnsInterleaveAgents: a HOST's turn with an RD line next. -/
theorem witness_rd :
    { State.reset with turns := [.host], host := [.rd (regAddr .id) "id9"] }.turns = .host :: [] ∧
    { State.reset with turns := [.host], host := [.rd (regAddr .id) "id9"] }.host = .rd (regAddr .id) "id9" :: [] :=
  ⟨rfl, rfl⟩

/-- EngineStepRunsDecodedCommand, with a turn given and with none; TurnsInterleaveAgents. -/
theorem witness_turns :
    (pending 0x00000F09#32 [.engine]).pend = some 0x00000F09#32 ∧ decodeWord 0x00000F09#32 = .ok (.addroundkey 15) ∧
    (pending 0x00000F09#32 [.engine]).turns = .engine :: [] ∧ (pending 0x00000F09#32 []).turns = [] ∧
    (pending 0x00000F09#32 [.host]).turns = .host :: [] ∧ (pending 0x00000F09#32 [.reset]).turns = .reset :: [] ∧
    State.reset.turns = [] ∧ State.reset.pend = none ∧ { State.reset with turns := [.engine] }.pend = none := by decide

/-- CmdWriteAccepts, BusyReadsDrawOrRead, BusyWritesAreDropped, PendingOperandsAreStable, PendingCommandEnds: idle
and busy states, a pending word, and registers in and out of its destination set, at the first and the last address. -/
theorem witness_busy :
    State.reset.busy = false ∧ (pending 0x0000000D#32 []).busy = true ∧
    (pending 0x0000000D#32 []).pend = some 0x0000000D#32 ∧ (pending 0x0000000D#32 []).pend ≠ none ∧
    decodeWord 0x0000000D#32 = .ok .ecbdec ∧ decodeAddr Config.example4096 0x1FFC#16 = some (.buf 1023) ∧
    destination .ecbdec (.buf 1023) = true ∧ decodeAddr Config.example4096 0x0014#16 = some .len ∧
    destination .ecbdec .len = false ∧ decodeAddr Config.example4096 0x003C#16 = some (.key 3) ∧
    decodeAddr Config.example4096 0x0000#16 = some .id ∧ decodeAddr Config.example4096 0x01AC#16 = some (.sched 43) ∧
    decodeAddr Config.example4096 0x000C#16 = some .status ∧ decodeWord 0x00000000#32 = .error .badOpcode ∧
    decodeAddr Config.example4096 0x2000#16 = none := by
  decide +kernel

/-- CommandsReadOnlyTheirOperands: two different states with the same operands, for every shape of operand set. -/
theorem witness_operands :
    loaded katKey katPlain ≠ { loaded katKey katPlain with viol := true, gfP := 1#8 } ∧
    State.bufOk (loaded katKey katPlain) ∧
    State.bufOk { loaded katKey katPlain with viol := true, gfP := 1#8 } ∧
    ∀ i : Instr, AgreeOnOperands i (loaded katKey katPlain) { loaded katKey katPlain with viol := true, gfP := 1#8 } := by
  refine ⟨fun h => absurd (congrArg State.viol h) (by decide), by decide, by decide, fun i => ?_⟩
  cases i <;> simp [AgreeOnOperands, loaded, State.bufByte]

/-- AddroundkeyXorsRoundKey, AddroundkeyErrors: SKV set and clear, the rounds at the bound. -/
theorem witness_addroundkey :
    (deriveSchedule (loaded katKey katPlain)).skv = true ∧ State.reset.skv = false ∧ 10 < 11 ∧ 10 ≤ 10 := by decide

/-- GmulFieldLaws, GinvIsTheInverse: a byte that is not zero, and its inverse. -/
theorem witness_inverse : (0x53#8 : Byte) ≠ 0x00#8 ∧ gmul 0x53#8 0xca#8 = 0x01#8 := by decide

/-- RconIsSuccessiveDoublings, ScheduleRecurrence, SequencerRunsTheSequence: the bounds of the indexes. -/
theorem witness_indexes :
    (2 ≤ 2 ∧ 2 ≤ 10) ∧ (2 ≤ 10 ∧ 10 ≤ 10) ∧ ((4 ≤ 43 ∧ 43 < 44 ∧ 3 < 4) ∧ 43 % 4 ≠ 0) ∧
    ((4 ≤ 4 ∧ 4 < 44 ∧ 0 < 4) ∧ 4 % 4 = 0) ∧ 40 ≤ 40 := by decide

/-- SequenceRounds: the first and the last AddRoundKey step of each sequence. -/
theorem witness_sequence :
    encSeq[0]? = some (.ark 0) ∧ encSeq[39]? = some (.ark 10) ∧ decSeq[0]? = some (.ark 10) ∧
    decSeq[39]? = some (.ark 0) := by decide

/-- PaddingCheckFindsPadding: a block of sixteen bytes 0x10, at the greatest P. PaddingLaws: a padding byte. -/
theorem witness_padding :
    0 < (List.replicate 16 0x10#8).length ∧ (List.replicate 16 0x10#8).length % 16 = 0 ∧
    pkcs7Check (List.replicate 16 0x10#8) = some 16 ∧
    15 < (pkcs7Pad (List.replicate 15 0x41#8)).length ∧ (List.replicate 15 0x41#8).length ≤ 15 := by decide

/-- EcbencEncryptsBuffer, EcbRoundTrip, EcbencOverflow: LEN just below and at BUF_SIZE. -/
theorem witness_ecbenc :
    State.bufOk (buffered katKey [1#8] 4095) ∧
    (buffered katKey [1#8] 4095).len.toNat < (buffered katKey [1#8] 4095).cfg.bufSize ∧
    (buffered katKey [] 4096).cfg.bufSize ≤ (buffered katKey [] 4096).len.toNat := by decide +kernel

/-- EcbdecEarlyErrors, EcbdecDecryptsAndValidates: LEN over BUF_SIZE, below it and uneven, zero, and BUF_SIZE itself. -/
theorem witness_ecbdec :
    (buffered katKey [] 4097).cfg.bufSize < (buffered katKey [] 4097).len.toNat ∧
    ((buffered katKey [] 4095).len.toNat ≤ (buffered katKey [] 4095).cfg.bufSize ∧
      (buffered katKey [] 4095).len.toNat % 16 ≠ 0) ∧
    (buffered katKey [] 0).len = 0#32 ∧
    (State.bufOk (buffered katKey [1#8] 4096) ∧ 0 < (buffered katKey [1#8] 4096).len.toNat ∧
      (buffered katKey [1#8] 4096).len.toNat ≤ (buffered katKey [1#8] 4096).cfg.bufSize ∧
      (buffered katKey [1#8] 4096).len.toNat % 16 = 0) := by decide +kernel

/-- EcbBlocksAreIndependent: two whole blocks of input, equal byte by byte. -/
theorem witness_ecbBlocks :
    State.bufOk (buffered katKey (List.replicate 32 0x41#8) 32) ∧
    (buffered katKey (List.replicate 32 0x41#8) 32).len.toNat < (buffered katKey (List.replicate 32 0x41#8) 32).cfg.bufSize ∧
    16 * 1 + 16 ≤ (buffered katKey (List.replicate 32 0x41#8) 32).len.toNat ∧
    ∀ n, n < 16 → (buffered katKey (List.replicate 32 0x41#8) 32).bufByte (16 * 0 + n) =
      (buffered katKey (List.replicate 32 0x41#8) 32).bufByte (16 * 1 + n) := by decide +kernel

/-- ErrorResponsesExactly: an address of each kind at the bound, and one of none. -/
theorem witness_addresses :
    (0x0001#16).toNat % 4 ≠ 0 ∧ (0x024 ≤ (0x002C#16).toNat ∧ (0x002C#16).toNat ≤ 0x02C) ∧
    (0x050 ≤ (0x00FC#16).toNat ∧ (0x00FC#16).toNat ≤ 0x0FC) ∧ (0x1B0 ≤ (0x0FFC#16).toNat ∧ (0x0FFC#16).toNat ≤ 0xFFC) ∧
    0x1000 + State.reset.cfg.bufSize ≤ (0x2000#16).toNat ∧
    ¬((0x1FFC#16).toNat % 4 ≠ 0 ∨ (0x024 ≤ (0x1FFC#16).toNat ∧ (0x1FFC#16).toNat ≤ 0x02C) ∨
      (0x050 ≤ (0x1FFC#16).toNat ∧ (0x1FFC#16).toNat ≤ 0x0FC) ∨ (0x1B0 ≤ (0x1FFC#16).toNat ∧ (0x1FFC#16).toNat ≤ 0xFFC) ∨
      0x1000 + State.reset.cfg.bufSize ≤ (0x1FFC#16).toNat) := by decide

/-- AddressMapIsExact, IdleReadValues, IdleWritesStore, WordsReadBack: an idle state and the last word of BUF. -/
theorem witness_idle :
    State.bufOk State.reset ∧ State.reset.busy = false ∧ 4 * 1023 < State.reset.cfg.bufSize ∧
    Reg.present State.reset.cfg (.buf 1023) = true ∧ Reg.present State.reset.cfg (.key 3) = true ∧
    Reg.present State.reset.cfg (.state 3) = true ∧ Reg.present State.reset.cfg .len = true ∧
    decodeAddr State.reset.cfg 0x1FFC#16 = some (.buf 1023) := by decide

/-- ResetLeavesResetValues: a state that is not the reset state, with RESET next. -/
theorem witness_reset : { loaded katKey katPlain with turns := [.reset] }.turns = .reset :: [] := by decide

/-- InvariantsKeptByEveryStep, ParametersNeverChange: the invariants hold of the reset state, and it has a next state. -/
theorem witness_invariant : State.reset.Inv ∧ ∃ t, step State.reset = .next t :=
  ⟨⟨by decide, by decide, by decide, by decide, by decide, by decide⟩, ⟨_, rfl⟩⟩

/-- The reset state with a KEYk write next. -/
def keyWrite : State := { deriveSchedule State.reset with host := [.wr (regAddr (.key 3)) 1#32], turns := [.host] }

/-- SkvChangesOnlyAsStated, KeyAndScheduleChangeOnlyAsStated: steps that clear SKV and change KEY. -/
theorem witness_keyWrite :
    keyWrite.skv = true ∧ nextAnd (step keyWrite) (fun t => !t.skv && t.key != keyWrite.key) = true := by decide +kernel

/-- SkvChangesOnlyAsStated, KeyAndScheduleChangeOnlyAsStated: a step that sets SKV and changes SCHED. -/
theorem witness_keyexp :
    (pending 0x00000001#32 [.engine]).skv = false ∧
    nextAnd (step (pending 0x00000001#32 [.engine]))
      (fun t => t.skv && readReg t (.sched 4) != readReg (pending 0x00000001#32 [.engine]) (.sched 4)) = true := by
  decide +kernel

/-- ResultIsThatAtAcceptance, PendingCommandEnds: three HOST steps before the completion, and no RESET. -/
theorem witness_latency :
    (pending 0x0000000A#32 (List.replicate 3 .host ++ [.engine])).busy = true ∧
    (pending 0x0000000A#32 (List.replicate 3 .host ++ [.engine])).pend = some 0x0000000A#32 ∧
    decodeWord 0x0000000A#32 = .ok .encblock ∧
    (pending 0x0000000A#32 (List.replicate 3 .host ++ [.engine])).turns = List.replicate 3 .host ++ .engine :: [] ∧
    Turn.reset ∉ (pending 0x0000000A#32 (List.replicate 3 .host ++ [.engine])).turns := by
  decide

/-- The reset state with RUN ENCBLOCK as the HOST's program and two polls before the completion. -/
def running : State :=
  { State.reset with host := hostRun .encblock ++ [], turns := List.replicate (2 + 1) .host ++ ([.engine, .host] ++ []) }

/-- RunWaitsForCompletion. -/
theorem witness_run :
    Instr.wellFormed .encblock = true ∧ running.busy = false ∧ running.pend = none ∧
    running.host = hostRun .encblock ++ [] ∧ running.turns = List.replicate (2 + 1) .host ++ ([.engine, .host] ++ []) := by
  decide

end Sys2Proof.Tests
end

section
/-! BUF_SIZE is a parameter, read from the field `cfg`: what each agent's step does to it (R8, R32). -/

namespace Sys2Proof.Machine

@[simp] theorem finish_cfg (s : State) (outcome : Option ErrorCode) : (finish s outcome).cfg = s.cfg := rfl

@[simp] theorem completeIllegal_cfg (s : State) : (completeIllegal s).cfg = s.cfg := raiseError_cfg .illegalCommand s

@[simp] theorem memRead_cfg (s : State) (a : Addr) : (memRead s a).2.2.cfg = s.cfg := by
  obtain ⟨h, -⟩ | ⟨r, -, -, h⟩ | ⟨r, -, -, h⟩ := memRead_cases s a
  · rw [h]
  · rw [h]
  · rw [h]

@[simp] theorem memWrite_cfg (s : State) (a : Addr) (v : Word) : (memWrite s a v).2.cfg = s.cfg := by
  obtain ⟨-, h⟩ | ⟨-, h⟩ | ⟨r, -, -, h⟩ | ⟨r, -, -, -, -, h⟩ | ⟨r, -, -, -, -, h⟩ := memWrite_cases s a v
  · rw [h]
  · rw [h, writeStatus_cfg]
  · rw [h]
  · rw [h]
  · rw [h, writeReg_cfg]

@[simp] theorem hostStep_cfg (s : State) : (hostStep s).cfg = s.cfg := by
  obtain ⟨-, h⟩ | ⟨a, v, rest, -, h⟩ | ⟨a, name, rest, -, h⟩ | ⟨a, mask, value, rest, -, h⟩ := hostStep_cases s
  · rw [h]
  · rw [h, record_cfg, memWrite_cfg]
  · rw [h, recordRead_cfg, memRead_cfg]
  · rw [h, recordRead_cfg, memRead_cfg]

theorem exec_cfg {i : Instr} {s t : State} (h : exec i s = .next t) : t.cfg = s.cfg := by
  obtain ⟨st, sched, skv, gfP, outlen, buf, outcome, hexec, -, -⟩ := exec_cases i s
  cases hexec.symm.trans h
  exact finish_cfg _ outcome

/-- Settles O56: the HOST, the ENGINE and RESET each leave `cfg` as it is. -/
theorem parametersNeverChange : Obligations.ParametersNeverChange := by
  unfold Obligations.ParametersNeverChange
  intro s t h
  obtain ⟨-, rfl⟩ | ⟨-, rfl⟩ | ⟨-, -, rfl⟩ | ⟨w, i, -, -, -, hexec⟩ | ⟨w, e, -, -, -, rfl⟩ := step_cases h
  · rw [hostStep_cfg, dropTurn_cfg]
  · rw [resetEvent_cfg, dropTurn_cfg]
  · rw [dropTurn_cfg]
  · rw [exec_cfg hexec, dropTurn_cfg]
  · rw [completeIllegal_cfg, dropTurn_cfg]

end Sys2Proof.Machine
end

section
/-! What a HOST step can do to the core, said once (R69, R71, R100): it writes a register, or it leaves the core as it
is. -/

namespace Sys2Proof.Machine

theorem memRead_state (s : State) (a : Addr) : ∃ draws, (memRead s a).2.2 = { s with draws := draws } := by
  obtain ⟨h, -⟩ | ⟨r, -, -, h⟩ | ⟨r, -, -, h⟩ := memRead_cases s a
  · exact ⟨s.draws, by rw [h]⟩
  · exact ⟨s.draws, by rw [h]⟩
  · exact ⟨s.draws + 1, by rw [h]⟩

/-- Only a WR line touches the core: every other HOST step moves on the HOST's own fields and the count of draws. -/
theorem hostStep_frame_or_write (s : State) :
    (∃ host draws bound replies,
      hostStep s = { s with host := host, draws := draws, bound := bound, replies := replies }) ∨
    (∃ a v rest reply, s.host = .wr a v :: rest ∧
      hostStep s = record (memWrite { s with host := rest } a v).2 reply) := by
  obtain ⟨-, h⟩ | ⟨a, v, rest, hhost, h⟩ | ⟨a, name, rest, -, h⟩ | ⟨a, mask, value, rest, -, h⟩ := hostStep_cases s
  · exact .inl ⟨_, _, _, _, h⟩
  · exact .inr ⟨a, v, rest, _, hhost, h⟩
  · obtain ⟨draws, hread⟩ := memRead_state { s with host := rest } a
    rw [hread] at h
    exact .inl ⟨_, _, _, _, h⟩
  · obtain ⟨draws, hread⟩ := memRead_state s a
    rw [hread] at h
    exact .inl ⟨_, _, _, _, h⟩

end Sys2Proof.Machine
end

section
/-! The invariants of R46: they hold at reset, and each operation keeps them. -/

namespace Sys2Proof.Machine

/-- A state with nothing pending, no error, no schedule and no written byte of BUF has the invariants. -/
theorem State.Inv.of_clear {s : State} (hskv : s.skv = false) (hbusy : s.busy = false) (herr : s.err = false)
    (hcode : s.errcode = 0#8) (hpend : s.pend = none) (hbuf : s.buf = []) : s.Inv where
  schedule := by simp [hskv]
  busyPend := by simp [hbusy, hpend]
  busyClear := by simp [hbusy]
  errCode := by simp [herr, hcode]
  codeRange := by simp [hcode]
  buffer := by simp [State.bufOk, Memory.wf, hbuf]

/-- Settles O53: every field the invariants speak of is clear at reset. -/
theorem invariantsHoldAtReset : Obligations.InvariantsHoldAtReset := by
  unfold Obligations.InvariantsHoldAtReset
  exact .of_clear rfl rfl rfl rfl rfl rfl

theorem resetEvent_inv (s : State) : (resetEvent s).Inv := .of_clear rfl rfl rfl rfl rfl rfl

/-- The codes of R220 are 1 to 6. -/
theorem errorCode_range (e : ErrorCode) : errorCode e ≠ 0#8 ∧ (errorCode e).toNat ≤ 6 := by
  cases e <;> decide

/-- A completion clears BUSY with PEND and sets ERR with ERRCODE, so it needs only the schedule and BUF to be in order. -/
theorem finish_inv {s : State} (hsched : s.skv = true → s.sched = expand s.key) (hbuf : s.bufOk)
    (outcome : Option ErrorCode) : (finish s outcome).Inv where
  schedule := hsched
  busyPend := by simp [finish]
  busyClear := by simp [finish]
  errCode := by
    cases outcome with
    | none => simp [finish]
    | some e => simp [finish, (errorCode_range e).1]
  codeRange := by
    cases outcome with
    | none => simp [finish]
    | some e => exact (errorCode_range e).2
  buffer := hbuf

theorem exec_inv {i : Instr} {s t : State} (hs : s.Inv) (h : exec i s = .next t) : t.Inv := by
  obtain ⟨st, sched, skv, gfP, outlen, buf, outcome, hexec, hsched, hbuf⟩ := exec_cases i s
  cases hexec.symm.trans h
  refine finish_inv ?_ (hbuf hs.buffer) outcome
  obtain ⟨rfl, rfl⟩ | ⟨rfl, rfl⟩ := hsched
  · exact hs.schedule
  · exact fun _ => rfl

theorem completeIllegal_inv {s : State} (hs : s.Inv) : (completeIllegal s).Inv :=
  finish_inv hs.schedule hs.buffer (some .illegalCommand)

theorem accept_inv {s : State} (hs : s.Inv) (v : Word) : (accept s v).Inv where
  schedule := hs.schedule
  busyPend := by simp
  busyClear := by simp
  errCode := by simp
  codeRange := by simp
  buffer := hs.buffer

/-- While BUSY = 1 DONE is already 0, so clearing it keeps R46(d). -/
theorem writeStatus_inv {s : State} (hs : s.Inv) (v : Word) : (writeStatus s v).Inv :=
  hs.congr (fun hk => ⟨hk, rfl⟩) rfl rfl rfl (fun hb => by simp [(hs.busyClear hb).1]) rfl rfl rfl rfl

/-- A BUF word that exists lies whole below BUF_SIZE, which is a multiple of 16 (R8, R21).
The states are written out where a stored value would have to be unfolded to see what is left unchanged. -/
theorem writeReg_inv {s : State} (hs : s.Inv) (v : Word) {r : Reg} (hr : r.present s.cfg = true) :
    (writeReg s v r).Inv := by
  cases r with
  | cmd => exact accept_inv hs v
  | status => exact writeStatus_inv hs v
  | key k =>
    show State.Inv { s with key := storeWord s.key k.val v, skv := false }
    exact { hs with schedule := fun hk => absurd hk Bool.false_ne_true }
  | buf k =>
    have hfit : 4 * k + (bytesOf v).length ≤ s.cfg.bufSize := by
      have hk : 4 * k < s.cfg.bufSize := by simpa [Reg.present] using hr
      have hsize := bufSize_range s.cfg
      simp only [bytesOf, List.length_cons, List.length_nil]
      omega
    show State.Inv { s with buf := s.buf.writeBytes (4 * k) (bytesOf v) }
    exact { hs with buffer := bufOk_writeBytes hs.buffer hfit }
  | id | param | errcode | outlen | gfres | sched => exact hs
  | state k =>
    show State.Inv { s with st := storeWord s.st k.val v }
    exact hs.congr (fun hk => ⟨hk, rfl⟩) rfl rfl rfl (fun _ => rfl) rfl rfl rfl rfl
  | len | gfop => exact { hs with }

theorem memWrite_inv {s : State} (hs : s.Inv) (a : Addr) (v : Word) : (memWrite s a v).2.Inv := by
  obtain ⟨-, h⟩ | ⟨-, h⟩ | ⟨r, -, -, h⟩ | ⟨r, -, -, -, -, h⟩ | ⟨r, hr, -, -, -, h⟩ := memWrite_cases s a v
  · rw [h]; exact hs
  · rw [h]; exact writeStatus_inv hs v
  · rw [h]; exact hs
  · rw [h]; exact { hs with }
  · rw [h]; exact writeReg_inv hs v (decodeAddr_some hr).1

theorem hostStep_inv {s : State} (hs : s.Inv) : (hostStep s).Inv := by
  obtain ⟨host, draws, bound, replies, h⟩ | ⟨a, v, rest, reply, -, h⟩ := hostStep_frame_or_write s
  · rw [h]; exact { hs with }
  · have hrest : State.Inv { s with host := rest } := { hs with }
    rw [h]; exact { memWrite_inv hrest a v with }

theorem dropTurn_inv {s : State} (hs : s.Inv) : (dropTurn s).Inv := { hs with }

/-- Settles O52: the HOST's writes, the completions and RESET each keep the invariants. -/
theorem invariantsKeptByEveryStep : Obligations.InvariantsKeptByEveryStep := by
  unfold Obligations.InvariantsKeptByEveryStep
  intro s t hs h
  have hdrop := dropTurn_inv hs
  obtain ⟨-, rfl⟩ | ⟨-, rfl⟩ | ⟨-, -, rfl⟩ | ⟨w, i, -, -, -, hexec⟩ | ⟨w, e, -, -, -, rfl⟩ := step_cases h
  · exact hostStep_inv hdrop
  · exact resetEvent_inv _
  · exact hdrop
  · exact exec_inv hdrop hexec
  · exact completeIllegal_inv hdrop

end Sys2Proof.Machine
end

section
/-! The register map of R21, and with it the bus at the addresses of STATUS, GFOP and the read-only registers. -/

namespace Sys2Proof.Machine

/-- BUF ends at 0x1000 + 61440 = 0x10000 at the latest (R8), so no offset wraps in 16 bits. -/
theorem regOffset_lt {c : Config} {r : Reg} (h : r.present c = true) : regOffset r < 2 ^ 16 := by
  have hsize := bufSize_range c
  cases r with
  | buf k =>
    have hk : 4 * k < c.bufSize := by simpa [Reg.present] using h
    simp only [regOffset]; omega
  | key k | state k | sched k => simp only [regOffset]; omega
  | id | param | cmd | status | errcode | len | outlen | gfop | gfres => simp [regOffset]

theorem decodeOffset_regOffset {c : Config} {r : Reg} (h : r.present c = true) :
    decodeOffset c (regOffset r) = some r := by
  cases r with
  | id | param | cmd | status | errcode | len | outlen | gfop | gfres => rfl
  | key k =>
    have hoff : regOffset (.key k) = 0x030 + 4 * k.val := rfl
    rw [decodeOffset, if_neg (by omega), if_neg (by omega), dif_pos (by omega)]
    simp [hoff]
  | state k =>
    have hoff : regOffset (.state k) = 0x040 + 4 * k.val := rfl
    rw [decodeOffset, if_neg (by omega), if_neg (by omega), dif_neg (by omega), dif_pos (by omega)]
    simp [hoff]
  | sched k =>
    have hoff : regOffset (.sched k) = 0x100 + 4 * k.val := rfl
    rw [decodeOffset, if_neg (by omega), if_neg (by omega), dif_neg (by omega), dif_neg (by omega), dif_pos (by omega)]
    simp [hoff]
  | buf k =>
    have hoff : regOffset (.buf k) = 0x1000 + 4 * k := rfl
    have hk : 4 * k < c.bufSize := by simpa [Reg.present] using h
    rw [decodeOffset, if_neg (by omega), if_neg (by omega), dif_neg (by omega), dif_neg (by omega), dif_neg (by omega),
      if_pos (by omega)]
    simp [hoff]

theorem decodeAddr_regAddr {c : Config} {r : Reg} (h : r.present c = true) : decodeAddr c (regAddr r) = some r := by
  rw [decodeAddr, regAddr, BitVec.toNat_ofNat, Nat.mod_eq_of_lt (regOffset_lt h), decodeOffset_regOffset h]

/-- Settles O40: the decode of an address names what stands there, and every register is decoded at its offset. -/
theorem addressMapIsExact : Obligations.AddressMapIsExact := by
  unfold Obligations.AddressMapIsExact
  intro c a r
  constructor
  · exact decodeAddr_some
  · rintro ⟨hr, rfl⟩
    exact decodeAddr_regAddr hr

theorem memWrite_status (s : State) (v : Word) : memWrite s (regAddr .status) v = (.okay, writeStatus s v) := by
  have hdecode : decodeAddr s.cfg (regAddr .status) = some .status := decodeAddr_regAddr rfl
  simp [memWrite, hdecode, writeReg]

theorem memWrite_readOnly (s : State) (v : Word) {r : Reg} (hp : r.present s.cfg = true) (hr : readOnly r = true) :
    memWrite s (regAddr r) v = (.okay, s) := by
  have hs : r ≠ .status := by rintro rfl; cases hr
  simp [memWrite, decodeAddr_regAddr hp, hs, hr]

/-- A write depends on the word written only through what its register stores of it. -/
theorem memWrite_regAddr_congr {s : State} {v v' : Word} {r : Reg} (hp : r.present s.cfg = true)
    (h : writeReg s v r = writeReg s v' r) : memWrite s (regAddr r) v = memWrite s (regAddr r) v' := by
  simp only [memWrite, decodeAddr_regAddr hp, h]

/-- Settles O47: the address decodes to STATUS, whose write BUSY does not stop. -/
theorem statusWriteClearsBits : Obligations.StatusWriteClearsBits := by
  unfold Obligations.StatusWriteClearsBits
  intro s v
  have hclear : ∀ clear flag : Bool, (if clear then false else flag) = (flag && !clear) := by decide
  exact (memWrite_status s v).trans (by simp only [writeStatus, hclear])

/-- Zero extension leaves nothing at or above the field's width. -/
theorem setWidth_ushiftRight_self {n : Nat} (x : BitVec n) : x.setWidth 32 >>> n = 0#32 := by
  apply BitVec.eq_of_getLsbD_eq
  intro i _
  simp

/-- The reserved bits of the four narrow registers read as 0 (R47). -/
theorem readReg_reserved (s : State) :
    readReg s .status >>> 5 = 0#32 ∧ readReg s .errcode >>> 8 = 0#32 ∧ readReg s .gfop >>> 16 = 0#32 ∧
      readReg s .gfres >>> 8 = 0#32 :=
  ⟨setWidth_ushiftRight_self _, setWidth_ushiftRight_self _, setWidth_ushiftRight_self _, setWidth_ushiftRight_self _⟩

theorem writeStatus_mask (s : State) (v : Word) : writeStatus s v = writeStatus s (v &&& 0x1F#32) := by
  simp [writeStatus]

/-- A byte of a word is not changed by a mask that is ones there. -/
theorem byteOf_and {v mask : Word} {j : Nat} (h : byteOf mask j = BitVec.allOnes 8) : byteOf (v &&& mask) j = byteOf v j := by
  rw [byteOf, BitVec.extractLsb'_and, ← byteOf, ← byteOf, h, BitVec.and_allOnes]

/-- Settles O50: a zero extension reads the reserved bits as 0, and no store looks at them. -/
theorem reservedBitsReadZero : Obligations.ReservedBitsReadZero := by
  unfold Obligations.ReservedBitsReadZero
  refine ⟨readReg_reserved, fun s v => ?_, fun s v => ?_, fun s v => ⟨?_, ?_⟩⟩
  · exact memWrite_regAddr_congr (r := .status) rfl (writeStatus_mask s v)
  · refine memWrite_regAddr_congr (r := .gfop) rfl ?_
    simp only [writeReg, byteOf_and (mask := 0xFFFF#32) (j := 0) rfl, byteOf_and (mask := 0xFFFF#32) (j := 1) rfl]
  · exact memWrite_readOnly s v (r := .errcode) rfl rfl
  · exact memWrite_readOnly s v (r := .gfres) rfl rfl

end Sys2Proof.Machine
end

section
/-! KEY, SCHED and SKV: which transactions, completions and steps change them (R22, R24, R25). -/

namespace Sys2Proof.Machine

/-- The commands that do `SCHED <- expand(KEY); SKV <- 1` (R25). -/
def scheduleDerivers : List Instr := [.keyexp, .encblock, .decblock, .ecbenc, .ecbdec]

theorem exec_key {i : Instr} {s t : State} (h : exec i s = .next t) : t.key = s.key := by
  obtain ⟨st, sched, skv, gfP, outlen, buf, outcome, hexec, -, -⟩ := exec_cases i s
  cases hexec.symm.trans h
  rfl

/-- A completion leaves SCHED and SKV alone, or derives the schedule as a whole, which only five commands do. -/
theorem exec_schedule {i : Instr} {s t : State} (h : exec i s = .next t) :
    (t.sched = s.sched ∧ t.skv = s.skv) ∨ (i ∈ scheduleDerivers ∧ t.sched = expand s.key ∧ t.skv = true) := by
  by_cases hi : i ∈ scheduleDerivers
  · obtain ⟨st, sched, skv, gfP, outlen, buf, outcome, hexec, hsched, -⟩ := exec_cases i s
    cases hexec.symm.trans h
    exact hsched.imp_right fun hderived => ⟨hi, hderived⟩
  · left
    cases i with
    | keyexp | encblock | decblock | ecbenc | ecbdec => simp [scheduleDerivers] at hi
    | gfmul | subbytes | invsubbytes | shiftrows | invshiftrows | mixcolumns | invmixcolumns =>
      cases h
      exact ⟨rfl, rfl⟩
    | addroundkey rnd =>
      simp only [exec, execAddroundkey] at h
      split_ifs at h
      · cases h; exact ⟨rfl, rfl⟩
      · cases h; exact ⟨rfl, rfl⟩
      · cases h; exact ⟨rfl, rfl⟩

/-- An accepted write leaves KEY and SKV alone, or goes to a KEYk register and clears SKV. -/
theorem writeReg_key_skv (s : State) (v : Word) (r : Reg) :
    ((writeReg s v r).key = s.key ∧ (writeReg s v r).skv = s.skv) ∨
    ((writeReg s v r).skv = false ∧ ∃ k, r = .key k) := by
  cases r with
  | key k => exact .inr ⟨rfl, k, rfl⟩
  | id | param | cmd | status | errcode | len | outlen | gfop | gfres | state | sched | buf => left; simp [writeReg]

@[simp] theorem memWrite_sched (s : State) (a : Addr) (v : Word) : (memWrite s a v).2.sched = s.sched := by
  obtain ⟨-, h⟩ | ⟨-, h⟩ | ⟨r, -, -, h⟩ | ⟨r, -, -, -, -, h⟩ | ⟨r, -, -, -, -, h⟩ := memWrite_cases s a v
  · rw [h]
  · rw [h, writeStatus_sched]
  · rw [h]
  · rw [h]
  · rw [h, writeReg_sched]

theorem memWrite_key_skv (s : State) (a : Addr) (v : Word) :
    ((memWrite s a v).2.key = s.key ∧ (memWrite s a v).2.skv = s.skv) ∨
    (s.busy = false ∧ (memWrite s a v).2.skv = false ∧ ∃ k, a = regAddr (.key k)) := by
  obtain ⟨-, h⟩ | ⟨-, h⟩ | ⟨r, -, -, h⟩ | ⟨r, -, -, -, -, h⟩ | ⟨r, hr, -, -, hbusy, h⟩ := memWrite_cases s a v
  · rw [h]; exact .inl ⟨rfl, rfl⟩
  · rw [h]; exact .inl ⟨rfl, rfl⟩
  · rw [h]; exact .inl ⟨rfl, rfl⟩
  · rw [h]; exact .inl ⟨rfl, rfl⟩
  · rw [h]
    refine (writeReg_key_skv s v r).imp_right fun ⟨hskv, k, hk⟩ => ⟨hbusy, hskv, k, ?_⟩
    rw [(decodeAddr_some hr).2, hk]

@[simp] theorem hostStep_sched (s : State) : (hostStep s).sched = s.sched := by
  obtain ⟨host, draws, bound, replies, h⟩ | ⟨a, v, rest, reply, -, h⟩ := hostStep_frame_or_write s
  · rw [h]
  · rw [h, record_sched, memWrite_sched]

theorem hostStep_key_skv (s : State) :
    ((hostStep s).key = s.key ∧ (hostStep s).skv = s.skv) ∨
    (s.busy = false ∧ (hostStep s).skv = false ∧ ∃ k v rest, s.host = .wr (regAddr (.key k)) v :: rest) := by
  obtain ⟨host, draws, bound, replies, h⟩ | ⟨a, v, rest, reply, hhost, h⟩ := hostStep_frame_or_write s
  · rw [h]; exact .inl ⟨rfl, rfl⟩
  · rw [h]
    refine (memWrite_key_skv { s with host := rest } a v).imp_right fun ⟨hbusy, hskv, k, hk⟩ => ?_
    exact ⟨hbusy, hskv, k, v, rest, by rw [hhost, hk]⟩

/-- The four things a step can do to KEY, SCHED and SKV: reset them, leave all three, write KEY and clear SKV, or derive
the schedule and set SKV. -/
theorem step_key_schedule_cases {s t : State} (h : step s = .next t) :
    (nextTurn s = .reset ∧ t.skv = false) ∨
    (t.key = s.key ∧ t.sched = s.sched ∧ t.skv = s.skv) ∨
    (nextTurn s = .host ∧ s.busy = false ∧ t.sched = s.sched ∧ t.skv = false ∧
      ∃ k v rest, s.host = .wr (regAddr (.key k)) v :: rest) ∨
    (nextTurn s = .engine ∧ t.key = s.key ∧ t.sched = expand s.key ∧ t.skv = true ∧
      ∃ w i, s.pend = some w ∧ decodeWord w = .ok i ∧ i ∈ scheduleDerivers) := by
  obtain ⟨hn, rfl⟩ | ⟨hn, rfl⟩ | ⟨-, -, rfl⟩ | ⟨w, i, hn, hp, hd, hexec⟩ | ⟨w, e, -, -, -, rfl⟩ := step_cases h
  · obtain ⟨hkey, hskv⟩ | ⟨hbusy, hskv, hwr⟩ := hostStep_key_skv (dropTurn s)
    · exact .inr (.inl ⟨hkey, hostStep_sched _, hskv⟩)
    · exact .inr (.inr (.inl ⟨hn, hbusy, hostStep_sched _, hskv, hwr⟩))
  · exact .inl ⟨hn, rfl⟩
  · exact .inr (.inl ⟨rfl, rfl, rfl⟩)
  · have hkey := exec_key hexec
    rw [dropTurn_key] at hkey
    obtain ⟨hsched, hskv⟩ | ⟨hi, hsched, hskv⟩ := exec_schedule hexec
    · exact .inr (.inl ⟨hkey, hsched, hskv⟩)
    · exact .inr (.inr (.inr ⟨hn, hkey, hsched, hskv, w, i, hp, hd, hi⟩))
  · exact .inr (.inl ⟨rfl, rfl, rfl⟩)

/-- Settles O54: SKV falls in the reset and KEYk-write cases, and rises in the derivation case alone. -/
theorem skvChangesOnlyAsStated : Obligations.SkvChangesOnlyAsStated := by
  unfold Obligations.SkvChangesOnlyAsStated
  intro s t h
  obtain ⟨hreset, hskv⟩ | ⟨-, -, hskv⟩ | ⟨hn, hbusy, -, hskv, hwr⟩ | ⟨hn, -, -, hskv, w, i, hp, hd, hi⟩ :=
    step_key_schedule_cases h
  · refine ⟨fun _ _ => .inl hreset, fun _ ht => ?_⟩
    simp [hskv] at ht
  · constructor
    · intro hs ht
      simp [hskv, hs] at ht
    · intro hs ht
      simp [hskv, hs] at ht
  · refine ⟨fun _ _ => .inr ⟨hn, hbusy, hwr⟩, fun _ ht => ?_⟩
    simp [hskv] at ht
  · refine ⟨fun _ ht => ?_, fun _ _ => ⟨hn, w, hp, ?_⟩⟩
    · simp [hskv] at ht
    · simpa [hd, scheduleDerivers] using hi

/-- Settles O55: KEY changes in the reset and KEYk-write cases, and SCHED in the reset and derivation cases. -/
theorem keyAndScheduleChangeOnlyAsStated : Obligations.KeyAndScheduleChangeOnlyAsStated := by
  unfold Obligations.KeyAndScheduleChangeOnlyAsStated
  intro s t h
  obtain ⟨hreset, -⟩ | ⟨hkey, hsched, -⟩ | ⟨hn, hbusy, hsched, hskv, hwr⟩ | ⟨hn, hkey, hsched, -, -⟩ :=
    step_key_schedule_cases h
  · exact ⟨fun _ => .inl hreset, fun _ => .inl hreset⟩
  · exact ⟨fun hne => absurd hsched hne, fun hne => absurd hkey hne⟩
  · exact ⟨fun hne => absurd hsched hne, fun _ => .inr ⟨hn, hbusy, hskv, hwr⟩⟩
  · exact ⟨fun _ => .inr ⟨hn, hsched⟩, fun hne => absurd hkey hne⟩

end Sys2Proof.Machine
end

section
/-! The bus at the address of a register and at an address of none: which transactions get ERROR, and what an idle
read answers (R64, R65, R67 to R70). -/

namespace Sys2Proof.Machine

/-- Settles O44: the three things a read can do move on the count of draws at most. -/
theorem readsHaveNoSideEffects : Obligations.ReadsHaveNoSideEffects := by
  unfold Obligations.ReadsHaveNoSideEffects
  exact memRead_state

/-- Settles O46: each of these addresses decodes to a read-only register. -/
theorem readOnlyWritesIgnored : Obligations.ReadOnlyWritesIgnored := by
  unfold Obligations.ReadOnlyWritesIgnored
  intro s v
  exact ⟨memWrite_readOnly s v (r := .id) rfl rfl, memWrite_readOnly s v (r := .param) rfl rfl,
    memWrite_readOnly s v (r := .errcode) rfl rfl, memWrite_readOnly s v (r := .outlen) rfl rfl,
    memWrite_readOnly s v (r := .gfres) rfl rfl, fun k => memWrite_readOnly s v (r := .sched k) rfl rfl⟩

/-- The offsets of no register: the misaligned ones (R65) and the four reserved ranges (R67). -/
theorem decodeOffset_eq_none_iff (c : Config) (n : Nat) :
    decodeOffset c n = none ↔ n % 4 ≠ 0 ∨ (0x024 ≤ n ∧ n ≤ 0x02C) ∨ (0x050 ≤ n ∧ n ≤ 0x0FC) ∨
      (0x1B0 ≤ n ∧ n ≤ 0xFFC) ∨ 0x1000 + c.bufSize ≤ n := by
  have hcontrol : controlRegs.length = 9 := rfl
  unfold decodeOffset
  split_ifs with haligned hctl hkey hstate hsched hbuf
  · simp [haligned]
  · rw [List.getElem?_eq_none_iff]; omega
  · simp only [false_iff]; omega
  · simp only [false_iff]; omega
  · simp only [false_iff]; omega
  · simp only [false_iff]; omega
  · simp only [true_iff]; omega

theorem memRead_resp_okay {s : State} {a : Addr} (h : decodeAddr s.cfg a ≠ none) : (memRead s a).2.1 = .okay := by
  obtain ⟨-, hnone⟩ | ⟨r, -, -, hread⟩ | ⟨r, -, -, hread⟩ := memRead_cases s a
  · exact absurd hnone h
  · rw [hread]
  · rw [hread]

theorem memWrite_resp_okay {s : State} {a : Addr} (h : decodeAddr s.cfg a ≠ none) (v : Word) :
    (memWrite s a v).1 = .okay := by
  obtain ⟨hnone, -⟩ | ⟨-, hwrite⟩ | ⟨r, -, -, hwrite⟩ | ⟨r, -, -, -, -, hwrite⟩ | ⟨r, -, -, -, -, hwrite⟩ :=
    memWrite_cases s a v
  · exact absurd hnone h
  · rw [hwrite]
  · rw [hwrite]
  · rw [hwrite]
  · rw [hwrite]

/-- Settles O41: the listed addresses are those that decode to no register, and only there is the response ERROR. -/
theorem errorResponsesExactly : Obligations.ErrorResponsesExactly := by
  unfold Obligations.ErrorResponsesExactly
  intro s a v
  rw [← decodeOffset_eq_none_iff]
  change (decodeAddr s.cfg a = none → _) ∧ (¬decodeAddr s.cfg a = none → _)
  constructor
  · intro hnone
    simp [memRead, memWrite, hnone]
  · intro hsome
    exact ⟨memRead_resp_okay hsome, memWrite_resp_okay hsome v⟩

theorem memRead_regAddr_idle {s : State} (hidle : s.busy = false) {r : Reg} (hp : r.present s.cfg = true) :
    memRead s (regAddr r) = (readReg s r, .okay, s) := by
  simp [memRead, decodeAddr_regAddr hp, hidle]

@[simp] theorem getElem_bitOf (b : Bool) : (bitOf b)[0] = b := by cases b <;> rfl

/-- The bits of STATUS (R33). -/
theorem statusWord_bits (s : State) :
    (statusWord s).getLsbD 0 = s.busy ∧ (statusWord s).getLsbD 1 = s.done ∧ (statusWord s).getLsbD 2 = s.err ∧
      (statusWord s).getLsbD 3 = s.skv ∧ (statusWord s).getLsbD 4 = s.viol := by
  simp only [statusWord, BitVec.getLsbD_setWidth, BitVec.getLsbD_append]
  simp

/-- GFOP's two bytes as one number (R26). -/
theorem toNat_append_byte (hi lo : Byte) : (hi ++ lo).toNat = lo.toNat + 256 * hi.toNat := by
  rw [BitVec.toNat_append, ← Nat.shiftLeft_add_eq_or_of_lt lo.isLt, Nat.shiftLeft_eq]
  omega

/-- Byte `j` of a packed word, at every index (R64). -/
theorem byteOf_packBytes_fin (b : Fin 4 → Byte) (j : Fin 4) :
    byteOf (packBytes (b 0) (b 1) (b 2) (b 3)) j.val = b j := by
  obtain ⟨h0, h1, h2, h3⟩ := byteOf_packBytes (b 0) (b 1) (b 2) (b 3)
  match j with
  | 0 => exact h0
  | 1 => exact h1
  | 2 => exact h2
  | 3 => exact h3

theorem byteOf_packWord {n : Nat} (b : Vector Byte n) (k : Nat) (h : 4 * k + 3 < n) (j : Fin 4) :
    byteOf (packWord n b k h) j.val = b[4 * k + j.val] :=
  byteOf_packBytes_fin (fun j => b[4 * k + j.val]) j

theorem byteOf_bufWord (s : State) (k : Nat) (j : Fin 4) : byteOf (s.bufWord k) j.val = s.bufByte (4 * k + j.val) :=
  byteOf_packBytes_fin (fun j => s.bufByte (4 * k + j.val)) j

/-- Settles O42: an idle read answers the register's value, whose bits or bytes are those of the fields it shows. -/
theorem idleReadValues : Obligations.IdleReadValues := by
  unfold Obligations.IdleReadValues
  intro s hidle
  have hread : ∀ r : Reg, r.present s.cfg = true → memRead s (regAddr r) = (readReg s r, .okay, s) :=
    fun r => memRead_regAddr_idle hidle
  obtain ⟨hbusy, hdone, herr, hskv, hviol⟩ := statusWord_bits s
  obtain ⟨hreserved, -⟩ := readReg_reserved s
  exact ⟨hread .id rfl, hread .param rfl, hread .cmd rfl,
    ⟨_, hread .status rfl, hbusy, hdone, herr, hskv, hviol, hreserved⟩,
    ⟨_, hread .errcode rfl, BitVec.toNat_setWidth_of_le (by decide)⟩,
    hread .len rfl, hread .outlen rfl,
    ⟨_, hread .gfop rfl, (BitVec.toNat_setWidth_of_le (by decide)).trans (toNat_append_byte s.gfB s.gfA)⟩,
    ⟨_, hread .gfres rfl, BitVec.toNat_setWidth_of_le (by decide)⟩,
    fun k => ⟨_, hread (.key k) rfl, byteOf_packWord s.key k.val (by omega)⟩,
    fun k => ⟨_, hread (.state k) rfl, byteOf_packWord s.st k.val (by omega)⟩,
    fun k => ⟨_, hread (.sched k) rfl, byteOf_packWord s.sched k.val (by omega)⟩,
    fun k hk => ⟨_, hread (.buf k) (decide_eq_true hk), byteOf_bufWord s k⟩⟩

end Sys2Proof.Machine
end

section
/-! What an idle write stores, and what the registers read afterwards (R64, R71, R262). -/

namespace Sys2Proof.Machine

theorem memWrite_regAddr_idle {s : State} (hidle : s.busy = false) {r : Reg} (hp : r.present s.cfg = true)
    (hr : readOnly r = false) (v : Word) : memWrite s (regAddr r) v = (.okay, writeReg s v r) := by
  simp [memWrite, decodeAddr_regAddr hp, hidle, hr]

/-- Two bus words with the same four bytes are equal (R64). -/
theorem word_ext {v w : Word} (h : ∀ j : Fin 4, byteOf v j.val = byteOf w j.val) : v = w := by
  rw [← packBytes_byteOf v, ← packBytes_byteOf w]
  exact congr (congr (congr (congrArg packBytes (h 0)) (h 1)) (h 2)) (h 3)

theorem getD_bytesOf (v : Word) {j : Nat} (hj : j < 4) : (bytesOf v).getD j 0#8 = byteOf v j := by
  match j, hj with
  | 0, _ => rfl
  | 1, _ => rfl
  | 2, _ => rfl
  | 3, _ => rfl

/-- A bus word stored in BUF, byte by byte (R64): the counterpart of `getElem_storeWord`. -/
theorem bufByte_writeReg_buf {s : State} (hbuf : s.bufOk) (v : Word) (k i : Nat) :
    (writeReg s v (.buf k)).bufByte i = if i / 4 = k then byteOf v (i % 4) else s.bufByte i := by
  have hlen : (bytesOf v).length = 4 := rfl
  refine (Memory.read_writeBytes hbuf.1 s.bufEpoch (4 * k) (bytesOf v) i).trans ?_
  rw [hlen]
  by_cases hi : i / 4 = k
  · rw [if_pos hi, if_pos (by omega), show i - 4 * k = i % 4 by omega, getD_bytesOf v (by omega)]
  · rw [if_neg hi, if_neg (by omega)]
    rfl

/-- The words of BUF after a bus word is stored in one of them (R64): the counterpart of `packWord_storeWord`. -/
theorem bufWord_writeReg_buf {s : State} (hbuf : s.bufOk) (v : Word) (k j : Nat) :
    (writeReg s v (.buf k)).bufWord j = if j = k then v else s.bufWord j := by
  apply word_ext
  intro i
  rw [byteOf_bufWord, bufByte_writeReg_buf hbuf, show (4 * j + i.val) / 4 = j by omega,
    show (4 * j + i.val) % 4 = i.val by omega]
  split_ifs
  · rfl
  · rw [byteOf_bufWord]

/-- Settles O48: an idle write to a register that is not read-only is the register's store. -/
theorem idleWritesStore : Obligations.IdleWritesStore := by
  unfold Obligations.IdleWritesStore
  intro s v hbuf hidle
  have hwrite : ∀ r : Reg, r.present s.cfg = true → readOnly r = false →
      memWrite s (regAddr r) v = (.okay, writeReg s v r) :=
    fun r hp hr => memWrite_regAddr_idle hidle hp hr v
  exact ⟨hwrite .len rfl rfl, hwrite .gfop rfl rfl,
    fun k => ⟨storeWord s.key k.val v, hwrite (.key k) rfl rfl, fun i => getElem_storeWord s.key k.val v i.val i.isLt⟩,
    fun k => ⟨storeWord s.st k.val v, hwrite (.state k) rfl rfl, fun i => getElem_storeWord s.st k.val v i.val i.isLt⟩,
    fun k hk => ⟨writeReg s v (.buf k), hwrite (.buf k) (decide_eq_true hk) rfl, rfl, bufByte_writeReg_buf hbuf v k⟩⟩

theorem writeReg_busy {r : Reg} (hr : r ≠ .cmd) (s : State) (v : Word) : (writeReg s v r).busy = s.busy := by
  cases r with
  | cmd => exact absurd rfl hr
  | id | param | status | errcode | len | outlen | gfop | gfres | key | state | sched | buf => simp [writeReg]

/-- A write of any register but CMD changes what that register and STATUS read, and no other: SKV, which a KEYk write
clears, is shown in STATUS alone (R33). -/
theorem readReg_writeReg_of_ne {s : State} (hbuf : s.bufOk) (v : Word) {r r' : Reg} (hcmd : r ≠ .cmd) (hne : r' ≠ r)
    (hstatus : r' ≠ .status) : readReg (writeReg s v r) r' = readReg s r' := by
  cases r with
  | cmd => exact absurd rfl hcmd
  | id | param | errcode | outlen | gfres | sched => rfl
  | status =>
    cases r' with
    | status => exact absurd rfl hstatus
    | _ => rfl
  | len =>
    cases r' with
    | len => exact absurd rfl hne
    | _ => rfl
  | gfop =>
    cases r' with
    | gfop => exact absurd rfl hne
    | status => exact absurd rfl hstatus
    | _ => simp [readReg, writeReg, State.bufWord, State.bufByte]
  | key k =>
    cases r' with
    | key j =>
      have hj : j.val ≠ k.val := fun h => hne (congrArg Reg.key (Fin.ext h))
      exact (packWord_storeWord s.key k.val v j.val (by omega)).trans (if_neg hj)
    | status => exact absurd rfl hstatus
    | _ => simp [readReg, writeReg, State.bufWord, State.bufByte]
  | state k =>
    cases r' with
    | state j =>
      have hj : j.val ≠ k.val := fun h => hne (congrArg Reg.state (Fin.ext h))
      exact (packWord_storeWord s.st k.val v j.val (by omega)).trans (if_neg hj)
    | status => exact absurd rfl hstatus
    | _ => simp [readReg, writeReg, State.bufWord, State.bufByte]
  | buf k =>
    cases r' with
    | buf j =>
      have hj : j ≠ k := fun h => hne (congrArg Reg.buf h)
      exact (bufWord_writeReg_buf hbuf v k j).trans (if_neg hj)
    | status => exact absurd rfl hstatus
    | _ => simp [readReg, writeReg]

/-- A register whose store keeps the whole word reads back, and the other registers read as before. -/
theorem memWrite_reads_back {s : State} (hbuf : s.bufOk) (hidle : s.busy = false) {v : Word} {r : Reg}
    (hp : r.present s.cfg = true) (hro : readOnly r = false) (hcmd : r ≠ .cmd)
    (hself : readReg (writeReg s v r) r = v) :
    ∃ t, memWrite s (regAddr r) v = (.okay, t) ∧ memRead t (regAddr r) = (v, .okay, t) ∧
      ∀ r' : Reg, r' ≠ r → r' ≠ .status → readReg t r' = readReg s r' := by
  have hidle' : (writeReg s v r).busy = false := (writeReg_busy hcmd s v).trans hidle
  have hp' : r.present (writeReg s v r).cfg = true := by rwa [writeReg_cfg]
  have hread := memRead_regAddr_idle hidle' hp'
  rw [hself] at hread
  exact ⟨_, memWrite_regAddr_idle hidle hp hro v, hread, fun r' => readReg_writeReg_of_ne hbuf v hcmd⟩

/-- Settles O49: LEN, KEYk, STATEk and the BUF words store the whole word. -/
theorem wordsReadBack : Obligations.WordsReadBack := by
  unfold Obligations.WordsReadBack
  intro s v r hbuf hidle hp hr
  obtain rfl | ⟨k, rfl⟩ | ⟨k, rfl⟩ | ⟨k, rfl⟩ := hr
  · exact memWrite_reads_back hbuf hidle hp rfl nofun rfl
  · exact memWrite_reads_back hbuf hidle hp rfl nofun
      ((packWord_storeWord s.key k.val v k.val (by omega)).trans (if_pos rfl))
  · exact memWrite_reads_back hbuf hidle hp rfl nofun
      ((packWord_storeWord s.st k.val v k.val (by omega)).trans (if_pos rfl))
  · exact memWrite_reads_back hbuf hidle hp rfl nofun ((bufWord_writeReg_buf hbuf v k k).trans (if_pos rfl))

end Sys2Proof.Machine
end

section
/-! Whose step it is, from the list of turns (R77, R231, R250), and what a HOST's RD line does (R100). -/

namespace Sys2Proof.Machine

theorem step_of_turns_cons {s : State} {turn : Turn} {ts : List Turn} (h : s.turns = turn :: ts) :
    step s = takeTurn turn { s with turns := ts } := by
  simp [step, interleave, nextTurn, dropTurn, h]

theorem dropTurn_of_turns_nil {s : State} (h : s.turns = []) : dropTurn s = s := by
  rw [dropTurn, h, List.tail_nil, ← h]

theorem step_of_turns_nil {s : State} (h : s.turns = []) (hp : s.pend = none) : step s = .next (hostStep s) := by
  have hturn : nextTurn s = .host := by simp [nextTurn, h, hp]
  rw [step, interleave, hturn, dropTurn_of_turns_nil h, takeTurn]

/-- The HOST's program and the list of turns are no state of the core, so no read depends on them. -/
theorem memRead_host_turns (s : State) (host : List HostOp) (ts : List Turn) (a : Addr) :
    memRead { s with host := host, turns := ts } a =
      ((memRead s a).1, (memRead s a).2.1, { (memRead s a).2.2 with host := host, turns := ts }) := by
  have hreg : ∀ r, readReg { s with host := host, turns := ts } r = readReg s r := fun r => by cases r <;> rfl
  obtain ⟨h, hd⟩ | ⟨r, hd, hb, h⟩ | ⟨r, hd, hb, h⟩ := memRead_cases s a
  · rw [h]; simp [memRead, hd]
  · rw [h]; simp [memRead, hd, hb, hreg]
  · rw [h]; simp [memRead, hd, hb]

theorem memRead_bound_replies (s : State) (a : Addr) :
    (memRead s a).2.2.bound = s.bound ∧ (memRead s a).2.2.replies = s.replies := by
  obtain ⟨draws, h⟩ := memRead_state s a
  rw [h]
  exact ⟨rfl, rfl⟩

/-- The HOST's step at an RD line, whatever the list of turns: the word and the response are those of the read. -/
theorem hostStep_rd {s : State} {a : Addr} {name : String} {rest : List HostOp} (h : s.host = .rd a name :: rest)
    (ts : List Turn) :
    hostStep { s with turns := ts } = recordRead { (memRead s a).2.2 with host := rest, turns := ts } name
      (memRead s a).1 (memRead s a).2.1 := by
  simp only [hostStep, h, memRead_host_turns s rest ts a]

/-- Settles O6: each clause is one way to choose the turn; an RD line binds its name and no other. -/
theorem turnsInterleaveAgents : Obligations.TurnsInterleaveAgents := by
  unfold Obligations.TurnsInterleaveAgents
  intro s
  refine ⟨fun ts h => step_of_turns_cons h, fun ts a name rest h hhost => ?_, fun ts h => step_of_turns_cons h,
    fun ts h hp => ?_, step_of_turns_nil⟩
  · obtain ⟨hbound, hreplies⟩ := memRead_bound_replies s a
    refine ⟨_, (step_of_turns_cons h).trans (congrArg Host.Outcome.next (hostStep_rd hhost ts)), ?_, fun m hm => ?_, ?_, ?_⟩
    · rw [recordRead_bound, Bindings.lookup_bind, if_pos rfl]
    · rw [recordRead_bound, Bindings.lookup_bind, if_neg hm, hbound]
    · rw [recordRead_replies, hreplies]
    · rw [recordRead_host]
  · rw [step_of_turns_cons h]
    simp [takeTurn, engineStep, hp]

end Sys2Proof.Machine
end

section
/-! Command words by their fields (R90): the decoder and the encoder are inverse to each other (R93, R99). -/

namespace Sys2Proof

/-- RSV, RND and OPC stand one above the other (R90). -/
theorem toNat_eq_fields (w : Word) : w.toNat = opcField w + 256 * rndField w + 4096 * rsvField w := by
  have hw := w.isLt
  simp only [opcField, rndField, rsvField, BitVec.extractLsb'_toNat, Nat.shiftRight_eq_div_pow]
  omega

theorem rndField_lt (w : Word) : rndField w < 16 := (w.extractLsb' 8 4).isLt

/-- A word whose RSV is 0 is the word of its other two fields. -/
theorem eq_ofNat_fields {w : Word} (hrsv : rsvField w = 0) : w = BitVec.ofNat 32 (opcField w + 256 * rndField w) := by
  have hfields := toNat_eq_fields w
  rw [hrsv, Nat.mul_zero, Nat.add_zero] at hfields
  rw [← hfields, BitVec.ofNat_toNat, BitVec.setWidth_eq]

/-- `0x00000009 | (r << 8)` puts the round above the opcode (R99). -/
theorem encode_addroundkey {r : Nat} (hr : r < 16) : encode (.addroundkey r) = BitVec.ofNat 32 (0x09 + 256 * r) := by
  interval_cases r <;> rfl

/-- A word other than ADDROUNDKEY's is its opcode (R92). -/
theorem encode_of_decodeOpcode {opc : Nat} {i : Instr} (h : decodeOpcode opc = .ok i) :
    i.wellFormed = true ∧ encode i = BitVec.ofNat 32 opc := by
  unfold decodeOpcode at h
  split at h <;> cases h <;> exact ⟨rfl, rfl⟩

/-- The two ways to decode: ADDROUNDKEY with the round of RND, or the command of the opcode with RND 0 (R93). -/
theorem decodeWord_ok_cases {w : Word} {i : Instr} (h : decodeWord w = .ok i) :
    rsvField w = 0 ∧ ((opcField w = 0x09 ∧ i = .addroundkey (rndField w)) ∨
      (rndField w = 0 ∧ decodeOpcode (opcField w) = .ok i)) := by
  unfold decodeWord at h
  split_ifs at h with hrsv hopc hrnd
  · cases h
    exact ⟨not_not.mp hrsv, .inl ⟨hopc, rfl⟩⟩
  · exact ⟨not_not.mp hrsv, .inr ⟨not_not.mp hrnd, h⟩⟩

theorem eq_encode_of_decodeWord {w : Word} {i : Instr} (h : decodeWord w = .ok i) :
    i.wellFormed = true ∧ w = encode i := by
  obtain ⟨hrsv, ⟨hopc, rfl⟩ | ⟨hrnd, hdecode⟩⟩ := decodeWord_ok_cases h
  · have hr := rndField_lt w
    have hw := eq_ofNat_fields hrsv
    rw [hopc] at hw
    exact ⟨decide_eq_true (by omega), hw.trans (encode_addroundkey hr).symm⟩
  · obtain ⟨hwf, hencode⟩ := encode_of_decodeOpcode hdecode
    have hw := eq_ofNat_fields hrsv
    rw [hrnd] at hw
    exact ⟨hwf, hw.trans hencode.symm⟩

theorem decodeWord_encode {i : Instr} (h : i.wellFormed = true) : decodeWord (encode i) = .ok i := by
  cases i with
  | addroundkey r =>
    have hr : r ≤ 15 := of_decide_eq_true h
    interval_cases r <;> rfl
  | keyexp | gfmul | subbytes | invsubbytes | shiftrows | invshiftrows | mixcolumns | invmixcolumns
  | encblock | decblock | ecbenc | ecbdec => rfl

/-- The bytes of a word in bus order make up the word (R64). -/
theorem append_bytes (w : Word) :
    w.extractLsb' 24 8 ++ w.extractLsb' 16 8 ++ w.extractLsb' 8 8 ++ w.extractLsb' 0 8 = w := by
  apply BitVec.eq_of_getLsbD_eq
  intro j hj
  simp only [BitVec.getLsbD_append, BitVec.getLsbD_extractLsb']
  interval_cases j <;> simp

/-- Settles O2: a word that decodes is the word of its fields, which is what the encoder writes. -/
theorem decodeInvertsEncode : Obligations.DecodeInvertsEncode := by
  unfold Obligations.DecodeInvertsEncode
  refine ⟨fun w i => ⟨eq_encode_of_decodeWord, ?_⟩, fun i rest hwf => ?_⟩
  · rintro ⟨hwf, rfl⟩
    exact decodeWord_encode hwf
  · simp only [encodeBytes, List.cons_append, List.nil_append, decodeBytes, append_bytes, decodeWord_encode hwf]
    rfl

/-- Settles O1: each word decodes by its fields, and a round above 10 is BAD_ROUND whatever SKV is (R96). -/
theorem commandWordsDecode : Obligations.CommandWordsDecode := by
  unfold Obligations.CommandWordsDecode
  refine ⟨rfl, rfl, rfl, rfl, rfl, rfl, rfl, rfl, rfl, rfl, fun s => ?_, rfl, rfl, rfl⟩
  exact ⟨Machine.raiseError .badRound s, rfl, rfl, rfl⟩

end Sys2Proof
end

section
/-! The opcode map (R92): its rows are the commands, by their mnemonics (R94). -/

namespace Sys2Proof

theorem exists_row_of_encode {i : Instr} (h : i.wellFormed = true) :
    ∃ r ∈ opcodeTable, r.mnemonic = i.mnemonic ∧ r.covers (encode i) = true := by
  cases i with
  | keyexp => exact Laws.RowOfWord.keyexp h
  | gfmul => exact Laws.RowOfWord.gfmul h
  | subbytes => exact Laws.RowOfWord.subbytes h
  | invsubbytes => exact Laws.RowOfWord.invsubbytes h
  | shiftrows => exact Laws.RowOfWord.shiftrows h
  | invshiftrows => exact Laws.RowOfWord.invshiftrows h
  | mixcolumns => exact Laws.RowOfWord.mixcolumns h
  | invmixcolumns => exact Laws.RowOfWord.invmixcolumns h
  | addroundkey rnd => exact Laws.RowOfWord.addroundkey rnd h
  | encblock => exact Laws.RowOfWord.encblock h
  | decblock => exact Laws.RowOfWord.decblock h
  | ecbenc => exact Laws.RowOfWord.ecbenc h
  | ecbdec => exact Laws.RowOfWord.ecbdec h

theorem opcField_eq_and (w : Word) : opcField w = (w &&& 0xFF#32).toNat := by
  rw [opcField, BitVec.extractLsb'_toNat, BitVec.toNat_and]
  exact (Nat.and_two_pow_sub_one_eq_mod w.toNat 8).symm

theorem rndField_eq_and (w : Word) : rndField w = ((w >>> 8) &&& 0xF#32).toNat := by
  rw [rndField, BitVec.extractLsb'_toNat, BitVec.toNat_and, BitVec.toNat_ushiftRight]
  exact (Nat.and_two_pow_sub_one_eq_mod (w.toNat >>> 8) 4).symm

theorem rsvField_eq_shift (w : Word) : rsvField w = (w >>> 12).toNat := by
  have hw := w.isLt
  rw [rsvField, BitVec.extractLsb'_toNat, BitVec.toNat_ushiftRight, Nat.shiftRight_eq_div_pow]
  omega

/-- A field of a word is not changed by a mask that is ones there. -/
theorem extractLsb'_and_of_allOnes {w mask : Word} {start len : Nat}
    (h : mask.extractLsb' start len = BitVec.allOnes len) :
    (w &&& mask).extractLsb' start len = w.extractLsb' start len := by
  rw [BitVec.extractLsb'_and, h, BitVec.and_allOnes]

/-- The mask of ADDROUNDKEY's row leaves RSV and OPC, and with them the command, as they are (R92). -/
theorem decodeWord_of_and_addroundkeyMask {w : Word} (h : w &&& 0xFFFFF0FF#32 = 0x00000009#32) :
    decodeWord w = .ok (.addroundkey (rndField w)) := by
  have hopc : opcField (w &&& 0xFFFFF0FF#32) = opcField w := congrArg BitVec.toNat (extractLsb'_and_of_allOnes rfl)
  have hrsv : rsvField (w &&& 0xFFFFF0FF#32) = rsvField w := congrArg BitVec.toNat (extractLsb'_and_of_allOnes rfl)
  rw [h] at hopc hrsv
  rw [decodeWord, ← hopc, ← hrsv]
  rfl

theorem mask_of_mem_opcodeTable {r : OpcodeRow} (h : r ∈ opcodeTable) :
    r.mask = 0xFFFFFFFF#32 ∨ r = ⟨"ADDROUNDKEY", 0x00000009#32, 0xFFFFF0FF#32⟩ := by
  revert r
  decide

theorem decodeWord_pattern {r : OpcodeRow} (h : r ∈ opcodeTable) :
    (decodeWord r.pattern).map Instr.mnemonic = .ok r.mnemonic := by
  revert r
  decide

/-- A word that a row covers decodes to a command of the row's mnemonic: a full mask leaves the row's one word, and
ADDROUNDKEY's takes any round (R94). -/
theorem decodeWord_of_covers {r : OpcodeRow} {w : Word} (h : r ∈ opcodeTable) (hw : r.covers w = true) :
    ∃ i, decodeWord w = .ok i ∧ r.mnemonic = i.mnemonic := by
  have hmatch : w &&& r.mask = r.pattern := beq_iff_eq.mp hw
  obtain hmask | rfl := mask_of_mem_opcodeTable h
  · rw [hmask, show 0xFFFFFFFF#32 = BitVec.allOnes 32 from rfl, BitVec.and_allOnes] at hmatch
    have hrow := decodeWord_pattern h
    rw [← hmatch] at hrow
    cases hdecode : decodeWord w with
    | ok i => rw [hdecode] at hrow; exact ⟨i, rfl, (Except.ok.inj hrow).symm⟩
    | error e => rw [hdecode] at hrow; cases hrow
  · exact ⟨_, decodeWord_of_and_addroundkeyMask hmatch, rfl⟩

theorem decodes_iff_covered (w : Word) : (∃ i, decodeWord w = .ok i) ↔ ∃ r ∈ opcodeTable, r.covers w = true := by
  constructor
  · rintro ⟨i, h⟩
    obtain ⟨hwf, rfl⟩ := eq_encode_of_decodeWord h
    obtain ⟨r, hr, -, hcovers⟩ := exists_row_of_encode hwf
    exact ⟨r, hr, hcovers⟩
  · rintro ⟨r, hr, hcovers⟩
    obtain ⟨i, h, -⟩ := decodeWord_of_covers hr hcovers
    exact ⟨i, h⟩

theorem covered_mnemonic {r : OpcodeRow} {w : Word} {i : Instr} (hr : r ∈ opcodeTable) (hcovers : r.covers w = true)
    (h : decodeWord w = .ok i) : r.mnemonic = i.mnemonic := by
  obtain ⟨j, hj, hmnemonic⟩ := decodeWord_of_covers hr hcovers
  cases h.symm.trans hj
  exact hmnemonic

theorem row_eq_of_mnemonic : ∀ r₁ ∈ opcodeTable, ∀ r₂ ∈ opcodeTable, r₁.mnemonic = r₂.mnemonic → r₁ = r₂ := by
  decide

/-- The covered words written out (R94). -/
theorem covered_iff_listed (w : Word) : (∃ r ∈ opcodeTable, r.covers w = true) ↔
    w &&& 0xFFFFF0FF#32 = 0x00000009#32 ∨
    w ∈ [0x1#32, 0x2#32, 0x3#32, 0x4#32, 0x5#32, 0x6#32, 0x7#32, 0x8#32, 0xA#32, 0xB#32, 0xC#32, 0xD#32] := by
  have hfull : w &&& 0xFFFFFFFF#32 = w := BitVec.and_allOnes
  simp only [opcodeTable, OpcodeRow.covers, List.mem_cons, List.not_mem_nil, or_and_right, exists_or, exists_eq_left,
    or_false, beq_iff_eq, hfull]
  tauto

/-- Settles O3: a row and a decoding of a word give each other, and the mnemonic tells the rows apart. -/
theorem legalWordsAreTheRows : Obligations.LegalWordsAreTheRows := by
  unfold Obligations.LegalWordsAreTheRows
  refine ⟨decodes_iff_covered, fun w => (decodes_iff_covered w).trans (covered_iff_listed w), ?_, ?_⟩
  · intro w r₁ r₂ h₁ h₂ hcovers₁ hcovers₂
    obtain ⟨i, hi, hmnemonic⟩ := decodeWord_of_covers h₁ hcovers₁
    exact row_eq_of_mnemonic r₁ h₁ r₂ h₂ (hmnemonic.trans (covered_mnemonic h₂ hcovers₂ hi).symm)
  · intro w i r h hr hcovers
    exact covered_mnemonic hr hcovers h

end Sys2Proof
end

section
/-! The illegal words (R95), and that no step of the machine stops (R61, R95). -/

namespace Sys2Proof

theorem decodeOpcode_error_iff (opc : Nat) :
    (∃ e, decodeOpcode opc = .error e) ↔ opc = 0x00 ∨ opc = 0x09 ∨ 0x0E ≤ opc := by
  by_cases hlarge : 0x0E ≤ opc
  · obtain ⟨n, rfl⟩ := Nat.exists_eq_add_of_le' hlarge
    exact ⟨fun _ => .inr (.inr hlarge), fun _ => ⟨.badOpcode, rfl⟩⟩
  · interval_cases opc <;> simp [decodeOpcode]

theorem decodeWord_error_iff (w : Word) : (∃ e, decodeWord w = .error e) ↔
    rsvField w ≠ 0 ∨ opcField w = 0x00 ∨ 0x0E ≤ opcField w ∨ (opcField w ≠ 0x09 ∧ rndField w ≠ 0) := by
  unfold decodeWord
  split_ifs with hrsv hopc hrnd
  · simp [hrsv]
  · simp [hrsv, hopc]
  · simp [hopc, hrnd]
  · rw [decodeOpcode_error_iff]
    simp [hrsv, hopc, hrnd]

end Sys2Proof

namespace Sys2Proof.Machine

/-- Where no turn is given the ENGINE goes first (log entry 1). -/
theorem step_of_turns_nil_pending {s : State} {w : Word} (h : s.turns = []) (hp : s.pend = some w) :
    step s = engineStep s := by
  have hturn : nextTurn s = .engine := by simp [nextTurn, h, hp]
  rw [step, interleave, hturn, dropTurn_of_turns_nil h, takeTurn]

theorem engineStep_of_illegal {s : State} {w : Word} {e : Illegal} (hp : s.pend = some w)
    (hd : decodeWord w = .error e) : engineStep s = .next (completeIllegal s) := by
  simp only [engineStep, hp, completeWord, hd]

theorem engineStep_of_command {s : State} {w : Word} {i : Instr} (hp : s.pend = some w)
    (hd : decodeWord w = .ok i) : engineStep s = exec i s := by
  simp only [engineStep, hp, completeWord, hd]

/-- Settles O4: the fields give the bits; CMD takes an illegal word as it takes any; the ENGINE's step is the
completion with ILLEGAL_COMMAND. -/
theorem illegalWordsCompleteWithError : Obligations.IllegalWordsCompleteWithError := by
  unfold Obligations.IllegalWordsCompleteWithError
  refine ⟨fun w => ?_, fun s w e _ hidle => ?_, fun s w e hd hp => ⟨fun ts h => ?_, fun h => ?_⟩⟩
  · rw [decodeWord_error_iff, opcField_eq_and, rndField_eq_and, rsvField_eq_shift]
    simp only [ne_eq, ← BitVec.toNat_inj, BitVec.le_def]
    rfl
  · exact memWrite_regAddr_idle hidle (r := .cmd) rfl rfl w
  · have hengine : engineStep { s with turns := ts } = _ := engineStep_of_illegal hp hd
    exact (step_of_turns_cons h).trans hengine
  · exact (step_of_turns_nil_pending h hp).trans (engineStep_of_illegal hp hd)

theorem exec_advances (i : Instr) (s : State) : ∃ t, exec i s = .next t := by
  obtain ⟨st, sched, skv, gfP, outlen, buf, outcome, h, -, -⟩ := exec_cases i s
  exact ⟨_, h⟩

theorem engineStep_advances (s : State) : ∃ t, engineStep s = .next t := by
  cases hp : s.pend with
  | none => exact ⟨s, by simp only [engineStep, hp]⟩
  | some w =>
    cases hd : decodeWord w with
    | ok i =>
      obtain ⟨t, h⟩ := exec_advances i s
      exact ⟨t, (engineStep_of_command hp hd).trans h⟩
    | error e => exact ⟨_, engineStep_of_illegal hp hd⟩

/-- Settles O7: a HOST step and RESET always answer, and so does the ENGINE, whatever word is pending. -/
theorem everyStepAdvances : Obligations.EveryStepAdvances := by
  unfold Obligations.EveryStepAdvances Advances
  intro s
  rw [step, interleave]
  cases nextTurn s with
  | host => exact ⟨_, rfl⟩
  | engine => exact engineStep_advances (dropTurn s)
  | reset => exact ⟨_, rfl⟩

end Sys2Proof.Machine
end

section
/-! What a command leaves as it was: every field that no register of its destination set shows (R97, R202). -/

namespace Sys2Proof.Machine

/-- A destination set holds a register array whole or not at all (R97). -/
theorem destination_array (i : Instr) :
    (∀ k, destination i (.state k) = destination i (.state 0)) ∧
    (∀ k, destination i (.sched k) = destination i (.sched 0)) ∧
    (∀ k, destination i (.buf k) = destination i (.buf 0)) := by
  cases i <;> exact ⟨fun _ => rfl, fun _ => rfl, fun _ => rfl⟩

/-- Only a schedule-deriving command touches SCHED and SKV (R25, R97). -/
theorem exec_frame_sched {i : Instr} {s t : State} (h : exec i s = .next t) (hd : destination i (.sched 0) = false) :
    t.sched = s.sched ∧ t.skv = s.skv := by
  obtain hkept | ⟨hi, -, -⟩ := exec_schedule h
  · exact hkept
  · simp only [scheduleDerivers, List.mem_cons, List.not_mem_nil, or_false] at hi
    obtain rfl | rfl | rfl | rfl | rfl := hi <;> cases hd

/-- On every path STATE, GF_P, OUTLEN and BUF are written only by the commands that have them in the destination set. -/
theorem exec_frame_results {i : Instr} {s t : State} (h : exec i s = .next t) :
    (destination i (.state 0) = false → t.st = s.st) ∧ (destination i .gfres = false → t.gfP = s.gfP) ∧
    (destination i .outlen = false → t.outlen = s.outlen) ∧ (destination i (.buf 0) = false → t.buf = s.buf) := by
  cases i with
  | keyexp | gfmul | subbytes | invsubbytes | shiftrows | invshiftrows | mixcolumns | invmixcolumns
  | encblock | decblock =>
    cases h
    simp [destination, inState, inSched]
  | addroundkey rnd =>
    simp only [exec, execAddroundkey] at h
    split_ifs at h
    · cases h; simp
    · cases h; simp
    · cases h; simp [destination, inState]
  | ecbenc =>
    simp only [exec, execEcbenc] at h
    split_ifs at h
    · cases h; simp [destination]
    · cases h; simp [destination, inBuf]
  | ecbdec =>
    simp only [exec, execEcbdec] at h
    split_ifs at h
    · cases h; simp [destination]
    · cases h; simp [destination]
    · cases h; simp [destination]
    · split at h
      · cases h; simp [destination, inBuf]
      · cases h; simp [destination, inBuf]

/-- The fields no command writes, as the shape of the state it ends in. -/
theorem exec_eq_finish {i : Instr} {s t : State} (h : exec i s = .next t) : ∃ st sched skv gfP outlen buf outcome,
    t = finish { s with st := st, sched := sched, skv := skv, gfP := gfP, outlen := outlen, buf := buf } outcome := by
  obtain ⟨st, sched, skv, gfP, outlen, buf, outcome, hexec, -, -⟩ := exec_cases i s
  cases hexec.symm.trans h
  exact ⟨st, sched, skv, gfP, outlen, buf, outcome, rfl⟩

theorem exec_frame_readReg {i : Instr} {s t : State} (h : exec i s = .next t) {r : Reg} (hd : destination i r = false)
    (hstatus : r ≠ .status) (herrcode : r ≠ .errcode) : readReg t r = readReg s r := by
  obtain ⟨hst, hgfP, houtlen, hbuf⟩ := exec_frame_results h
  obtain ⟨hstates, hscheds, hbufs⟩ := destination_array i
  have hsched : destination i (.sched 0) = false → t.sched = s.sched := fun hd => (exec_frame_sched h hd).1
  obtain ⟨st, sched, skv, gfP, outlen, buf, outcome, rfl⟩ := exec_eq_finish h
  cases r with
  | status => exact absurd rfl hstatus
  | errcode => exact absurd rfl herrcode
  | id | param | cmd | len | gfop | key => rfl
  | outlen => exact houtlen hd
  | gfres => simp only [readReg, hgfP hd]
  | state k => simp only [readReg, hst ((hstates k).symm.trans hd)]
  | sched k => simp only [readReg, hsched ((hscheds k).symm.trans hd)]
  | buf k =>
    have hbuf : buf = s.buf := hbuf ((hbufs k).symm.trans hd)
    rw [hbuf]
    rfl

/-- Settles O11: each field a command writes is shown by registers of its destination set alone. -/
theorem commandsWriteOnlyTheirDestinations : Obligations.CommandsWriteOnlyTheirDestinations := by
  unfold Obligations.CommandsWriteOnlyTheirDestinations
  intro i s
  obtain ⟨t, h⟩ := exec_advances i s
  obtain ⟨-, -, -, hbuf⟩ := exec_frame_results h
  have hskv : destination i (.sched 0) = false → t.skv = s.skv := fun hd => (exec_frame_sched h hd).2
  refine ⟨t, h, fun r => exec_frame_readReg h, hbuf, hskv, ?_⟩
  obtain ⟨st, sched, skv, gfP, outlen, buf, outcome, rfl⟩ := exec_eq_finish h
  exact ⟨rfl, rfl, rfl, rfl, rfl, rfl, rfl, rfl⟩

end Sys2Proof.Machine
end

section
/-! Two runs of a command from states that agree on its operands (R97, R132). -/

namespace Sys2Proof.Machine

/-- From two states a command ends with the same ERRCODE, and each word of its destination set with the same value, or
as it was in both: the conclusion of CommandsReadOnlyTheirOperands. -/
def EndsAlike (i : Instr) (s s' : State) : Prop :=
  ∃ t t', exec i s = .next t ∧ exec i s' = .next t' ∧ t.errcode = t'.errcode ∧
    ∀ r : Reg, destination i r = true →
      readReg t r = readReg t' r ∨ (readReg t r = readReg s r ∧ readReg t' r = readReg s' r)

theorem EndsAlike.of_same {i : Instr} {s s' t t' : State} (h : exec i s = .next t) (h' : exec i s' = .next t')
    (hcode : t.errcode = t'.errcode) (hreg : ∀ r : Reg, destination i r = true → readReg t r = readReg t' r) :
    EndsAlike i s s' :=
  ⟨t, t', h, h', hcode, fun r hr => .inl (hreg r hr)⟩

theorem readReg_congr_of_inState {t u : State} {r : Reg} (hr : inState r = true) (h : t.st = u.st) :
    readReg t r = readReg u r := by
  cases r with
  | state k => simp only [readReg, h]
  | _ => cases hr

theorem readReg_congr_of_inSched {t u : State} {r : Reg} (hr : inSched r = true) (h : t.sched = u.sched) :
    readReg t r = readReg u r := by
  cases r with
  | sched k => simp only [readReg, h]
  | _ => cases hr

theorem readReg_congr_of_inBuf {t u : State} {r : Reg} (hr : inBuf r = true) (h : ∀ n, t.bufByte n = u.bufByte n) :
    readReg t r = readReg u r := by
  cases r with
  | buf k => simp only [readReg, State.bufWord, h]
  | _ => cases hr

/-- The destination set of ENCBLOCK and DECBLOCK (R97). -/
theorem readReg_congr_of_block {t u : State} {r : Reg} (hr : (inState r || inSched r) = true) (hst : t.st = u.st)
    (hsched : t.sched = u.sched) : readReg t r = readReg u r := by
  obtain hr | hr := Bool.or_eq_true_iff.mp hr
  · exact readReg_congr_of_inState hr hst
  · exact readReg_congr_of_inSched hr hsched

/-- The destination set of ECBENC and ECBDEC (R97). -/
theorem readReg_congr_of_ecb {t u : State} {r : Reg} (hr : (inBuf r || inSched r || r == .outlen) = true)
    (hbuf : ∀ n, t.bufByte n = u.bufByte n) (hsched : t.sched = u.sched) (houtlen : t.outlen = u.outlen) :
    readReg t r = readReg u r := by
  simp only [Bool.or_eq_true, beq_iff_eq] at hr
  obtain (hr | hr) | rfl := hr
  · exact readReg_congr_of_inBuf hr hbuf
  · exact readReg_congr_of_inSched hr hsched
  · exact houtlen

/-- An ECB error found before SCHED is derived clears OUTLEN and keeps SCHED and BUF (R202). -/
theorem raiseEcb_endsAlike {i : Instr} {s s' : State} {e : ErrorCode}
    (hi : ∀ r, destination i r = (inBuf r || inSched r || r == .outlen))
    (h : exec i s = .next (raiseEcb e s)) (h' : exec i s' = .next (raiseEcb e s')) : EndsAlike i s s' := by
  refine ⟨_, _, h, h', rfl, fun r hr => ?_⟩
  simp only [hi, Bool.or_eq_true, beq_iff_eq] at hr
  obtain (hr | hr) | rfl := hr
  · exact .inr ⟨readReg_congr_of_inBuf hr fun _ => rfl, readReg_congr_of_inBuf hr fun _ => rfl⟩
  · exact .inr ⟨readReg_congr_of_inSched hr rfl, readReg_congr_of_inSched hr rfl⟩
  · exact .inl rfl

/-- Memories that read alike read alike after consecutive writes, however their bytes are listed. -/
theorem read_writeBytes_congr {m m' : Memory} {e e' : Nat} (hm : m.wf) (hm' : m'.wf)
    (h : ∀ n, m.read e n = m'.read e' n) (i : Nat) (bs : List Byte) (n : Nat) :
    (m.writeBytes i bs).read e n = (m'.writeBytes i bs).read e' n := by
  rw [Memory.read_writeBytes hm, Memory.read_writeBytes hm', h]

/-- Memories that read alike read alike after the block pass. -/
theorem read_cryptBlocks_congr {m m' : Memory} {e e' : Nat} (hm : m.wf) (hm' : m'.wf)
    (h : ∀ n, m.read e n = m'.read e' n) (f : Block → Block) (k n : Nat) :
    (cryptBlocks f e k m).read e n = (cryptBlocks f e' k m').read e' n := by
  have hblock : readBlock e m (n / 16) = readBlock e' m' (n / 16) := by simp only [readBlock, h]
  rw [read_cryptBlocks f e k hm, read_cryptBlocks f e' k hm', hblock, h]

/-- The two states may list the same bytes of BUF differently, so the results are compared as they read. -/
theorem ecbenc_endsAlike {s s' : State} (hbuf : s.bufOk) (hbuf' : s'.bufOk) (h : AgreeOnOperands .ecbenc s s') :
    EndsAlike .ecbenc s s' := by
  obtain ⟨hcfg, hkey, hlen, hbytes⟩ := h
  by_cases hover : s.len.toNat ≥ s.cfg.bufSize
  · exact raiseEcb_endsAlike (fun _ => rfl) (if_pos hover) (if_pos (hlen ▸ hcfg ▸ hover))
  · have hpadded := read_writeBytes_congr hbuf.1 hbuf'.1 hbytes s.len.toNat (padding s.len.toNat)
    have hcrypt := read_cryptBlocks_congr (Memory.wf_writeBytes hbuf.1 _ _) (Memory.wf_writeBytes hbuf'.1 _ _) hpadded
      (fun x => cipher x (expand s.key)) ((s.len.toNat + padCount s.len.toNat) / 16)
    refine .of_same (if_neg hover) (if_neg (hlen ▸ hcfg ▸ hover)) rfl fun r hr => ?_
    refine readReg_congr_of_ecb hr (fun n => ?_) ?_ ?_
    · exact (hcrypt n).trans (by rw [hkey, hlen]; rfl)
    · exact congrArg expand hkey
    · exact congrArg (fun len : Word => BitVec.ofNat 32 (len.toNat + padCount len.toNat)) hlen

theorem ecbdec_endsAlike {s s' : State} (hbuf : s.bufOk) (hbuf' : s'.bufOk) (h : AgreeOnOperands .ecbdec s s') :
    EndsAlike .ecbdec s s' := by
  obtain ⟨hcfg, hkey, hlen, hbytes⟩ := h
  have hcrypt := read_cryptBlocks_congr hbuf.1 hbuf'.1 hbytes (fun x => invCipher x (expand s.key)) (s.len.toNat / 16)
  have hexec : exec .ecbdec s = execEcbdec s := rfl
  have hexec' : exec .ecbdec s' = execEcbdec s' := rfl
  simp only [execEcbdec, ← hcfg, ← hkey, ← hlen] at hexec hexec'
  split_ifs at hexec hexec' with hover hlength hzero
  · exact raiseEcb_endsAlike (fun _ => rfl) hexec hexec'
  · exact raiseEcb_endsAlike (fun _ => rfl) hexec hexec'
  · exact raiseEcb_endsAlike (fun _ => rfl) hexec hexec'
  · rw [← funext hcrypt] at hexec'
    split at hexec
    next hpad =>
      rw [hpad] at hexec'
      exact .of_same hexec hexec' rfl fun r hr => readReg_congr_of_ecb hr hcrypt (congrArg expand hkey) rfl
    next p hpad =>
      rw [hpad] at hexec'
      exact .of_same hexec hexec' rfl fun r hr => readReg_congr_of_ecb hr hcrypt (congrArg expand hkey) rfl

/-- Settles O12: every command's results are a function of its operands, on each of its paths. -/
theorem commandsReadOnlyTheirOperands : Obligations.CommandsReadOnlyTheirOperands := by
  unfold Obligations.CommandsReadOnlyTheirOperands
  intro i s s' hbuf hbuf' h
  show EndsAlike i s s'
  cases i with
  | keyexp => exact .of_same rfl rfl rfl fun r hr => readReg_congr_of_inSched hr (congrArg expand h)
  | gfmul =>
    obtain ⟨hA, hB⟩ := h
    refine .of_same rfl rfl rfl fun r hr => ?_
    obtain rfl : r = .gfres := beq_iff_eq.mp hr
    have hproduct : gmul s.gfA s.gfB = gmul s'.gfA s'.gfB := by rw [hA, hB]
    exact congrArg (BitVec.setWidth 32) hproduct
  | subbytes => exact .of_same rfl rfl rfl fun r hr => readReg_congr_of_inState hr (congrArg subBytes h)
  | invsubbytes => exact .of_same rfl rfl rfl fun r hr => readReg_congr_of_inState hr (congrArg invSubBytes h)
  | shiftrows => exact .of_same rfl rfl rfl fun r hr => readReg_congr_of_inState hr (congrArg shiftRows h)
  | invshiftrows => exact .of_same rfl rfl rfl fun r hr => readReg_congr_of_inState hr (congrArg invShiftRows h)
  | mixcolumns => exact .of_same rfl rfl rfl fun r hr => readReg_congr_of_inState hr (congrArg mixColumns h)
  | invmixcolumns => exact .of_same rfl rfl rfl fun r hr => readReg_congr_of_inState hr (congrArg invMixColumns h)
  | addroundkey rnd =>
    obtain ⟨hst, hsched, hskv⟩ := h
    have hexec : exec (.addroundkey rnd) s = execAddroundkey rnd s := rfl
    have hexec' : exec (.addroundkey rnd) s' = execAddroundkey rnd s' := rfl
    simp only [execAddroundkey, ← hst, ← hsched, ← hskv] at hexec hexec'
    split_ifs at hexec hexec' with hround hnone
    · exact .of_same hexec hexec' rfl fun r hr => readReg_congr_of_inState hr hst
    · exact .of_same hexec hexec' rfl fun r hr => readReg_congr_of_inState hr hst
    · exact .of_same hexec hexec' rfl fun r hr => readReg_congr_of_inState hr rfl
  | encblock =>
    obtain ⟨hkey, hst⟩ := h
    have hblock : cipher s.st (expand s.key) = cipher s'.st (expand s'.key) := by rw [hst, hkey]
    exact .of_same rfl rfl rfl fun r hr => readReg_congr_of_block hr hblock (congrArg expand hkey)
  | decblock =>
    obtain ⟨hkey, hst⟩ := h
    have hblock : invCipher s.st (expand s.key) = invCipher s'.st (expand s'.key) := by rw [hst, hkey]
    exact .of_same rfl rfl rfl fun r hr => readReg_congr_of_block hr hblock (congrArg expand hkey)
  | ecbenc => exact ecbenc_endsAlike hbuf hbuf' h
  | ecbdec => exact ecbdec_endsAlike hbuf hbuf' h

end Sys2Proof.Machine
end

section
/-! RUN (R101 to R103): the HOST's CMD line, its polls of STATUS and the completion, turn by turn; and that what stands
around the core does not enter into a command (R226). -/

namespace Sys2Proof.Machine

/-- The core of `u`, with VIOL, the count of busy draws and everything around the core as in `a`: the fields that
`AgreeOnCore` does not compare. -/
def State.withSurroundings (u a : State) : State :=
  { u with viol := a.viol, draws := a.draws, host := a.host, turns := a.turns, bound := a.bound, replies := a.replies }

theorem agreeOnCore_withSurroundings (u a : State) : AgreeOnCore (u.withSurroundings a) u := by
  constructor <;> rfl

theorem AgreeOnCore.eq_withSurroundings {t u : State} (h : AgreeOnCore t u) : t = u.withSurroundings t := by
  simp only [State.withSurroundings, ← h.cfg, ← h.key, ← h.st, ← h.sched, ← h.skv, ← h.gfA, ← h.gfB, ← h.gfP, ← h.len,
    ← h.outlen, ← h.cmd, ← h.busy, ← h.done, ← h.err, ← h.errcode, ← h.pend, ← h.buf, ← h.bufEpoch]

/-- VIOL, the count of draws and the surroundings pass through a command: no guard and no result of one reads them. -/
theorem exec_withSurroundings {i : Instr} {s t : State} (h : exec i s = .next t) (a : State) :
    exec i (s.withSurroundings a) = .next (t.withSurroundings a) := by
  cases i with
  | keyexp | gfmul | subbytes | invsubbytes | shiftrows | invshiftrows | mixcolumns | invmixcolumns
  | encblock | decblock => cases h; rfl
  | addroundkey rnd =>
    simp only [exec, execAddroundkey] at h
    split_ifs at h with hround hskv
    · cases h; exact dif_pos hround
    · cases h; exact (dif_neg hround).trans (if_pos hskv)
    · cases h; exact (dif_neg hround).trans (if_neg hskv)
  | ecbenc =>
    simp only [exec, execEcbenc] at h
    split_ifs at h with hover
    · cases h; exact if_pos hover
    · cases h; exact if_neg hover
  | ecbdec =>
    simp only [exec, execEcbdec] at h
    split_ifs at h with hover hlength hzero
    · cases h; exact if_pos hover
    · cases h; exact (if_neg hover).trans (if_pos hlength)
    · cases h; exact (if_neg hover).trans ((if_neg hlength).trans (if_pos hzero))
    · refine (if_neg hover).trans ((if_neg hlength).trans ((if_neg hzero).trans ?_))
      split at h
      next hpad => cases h; simp only [State.withSurroundings, hpad]; rfl
      next p hpad => cases h; simp only [State.withSurroundings, hpad]; rfl

/-- A command completes on equal cores with equal cores (R226). -/
theorem exec_of_agreeOnCore {i : Instr} {s s' t : State} (hcore : AgreeOnCore s' s) (h : exec i s = .next t) :
    exec i s' = .next (t.withSurroundings s') := by
  rw [hcore.eq_withSurroundings]
  exact exec_withSurroundings h s'

theorem run_of_step {s t : State} (h : step s = .next t) (k : Nat) :
    Host.Core.run core (k + 1) s = Host.Core.run core k t := by
  have hstep : core.step s = .next t := h
  simp only [Host.Core.run, hstep]

/-- STATUS is in no destination set, so its reads are never draws (R97, R261). -/
theorem memRead_status (s : State) : memRead s (regAddr .status) = (statusWord s, .okay, s) := by
  have hdest : pendingDestination s.pend .status = false := by
    unfold pendingDestination
    split
    · rfl
    · split
      · next i _ => cases i <;> rfl
      · rfl
  have hdecode : decodeAddr s.cfg (regAddr .status) = some .status := decodeAddr_regAddr rfl
  simp [memRead, hdecode, hdest, readReg]

/-- RUN's POLL waits for BUSY = 0 with DONE = 1 (R103). -/
theorem statusWord_poll (s : State) : statusWord s &&& 0x3#32 = 0x2#32 ↔ s.busy = false ∧ s.done = true := by
  have hbits : ∀ viol skv err done busy : Bool,
      (bitOf viol ++ bitOf skv ++ bitOf err ++ bitOf done ++ bitOf busy : BitVec 5).setWidth 32 &&& 0x3#32 = 0x2#32 ↔
        busy = false ∧ done = true := by decide
  exact hbits s.viol s.skv s.err s.done s.busy

theorem hostStep_poll_status {s : State} {p : List HostOp} (h : s.host = .poll (regAddr .status) 0x3#32 0x2#32 :: p) :
    hostStep s = recordRead { s with host := if s.busy = false ∧ s.done = true then p else s.host } "t" (statusWord s)
      .okay := by
  simp only [hostStep, h, memRead_status, statusWord_poll]

theorem statusWord_of_agreeOnCore {t u : State} (h : AgreeOnCore t u) (hviol : t.viol = u.viol) :
    statusWord t = statusWord u := by
  simp only [statusWord, hviol, h.skv, h.err, h.done, h.busy]

/-- A CMD line on an idle core is an acceptance (R102, R225). -/
theorem hostStep_cmd {s : State} {i : Instr} {rest : List HostOp} (hidle : s.busy = false)
    (h : s.host = hostCmd i ++ rest) :
    hostStep s = record (accept { s with host := rest } (encode i)) (.write .okay) := by
  have h : s.host = .wr (regAddr .cmd) (encode i) :: rest := h
  have hidle : State.busy { s with host := rest } = false := hidle
  have hwrite := memWrite_regAddr_idle hidle (r := .cmd) rfl rfl (encode i)
  simp only [hostStep, h, hwrite, writeReg]

/-- The HOST stands at RUN's POLL, with the turns `ts` to come, and the core and VIOL are those of `a`. -/
structure Polling (a s : State) (p : List HostOp) (ts : List Turn) : Prop where
  agree : AgreeOnCore s a
  viol : s.viol = a.viol
  host : s.host = .poll (regAddr .status) 0x3#32 0x2#32 :: p
  turns : s.turns = ts

theorem polling_of_issue {s : State} {i : Instr} {p : List HostOp} {ts : List Turn} (hidle : s.busy = false)
    (hhost : s.host = hostRun i ++ p) (hturns : s.turns = .host :: ts) :
    ∃ s', step s = .next s' ∧ Polling (accept s (encode i)) s' p ts := by
  have hissue := hostStep_cmd (s := { s with turns := ts }) (i := i)
    (rest := .poll (regAddr .status) 0x3#32 0x2#32 :: p) hidle hhost
  have hstep := (step_of_turns_cons hturns).trans (congrArg Host.Outcome.next hissue)
  exact ⟨_, hstep, by constructor <;> rfl, rfl, rfl, rfl⟩

/-- A poll of a busy core stays (R101). -/
theorem Polling.poll_busy {a s : State} {p : List HostOp} {ts : List Turn} (h : Polling a s p (.host :: ts))
    (hbusy : a.busy = true) : ∃ s', step s = .next s' ∧ Polling a s' p ts := by
  obtain ⟨hcore, hviol, hhost, hturns⟩ := h
  have hwait : ¬(s.busy = false ∧ s.done = true) := by simp [hcore.busy, hbusy]
  have hpoll := (hostStep_poll_status (s := { s with turns := ts }) hhost).trans (by rw [if_neg hwait])
  exact ⟨_, (step_of_turns_cons hturns).trans (congrArg Host.Outcome.next hpoll), { hcore with }, hviol, hhost, rfl⟩

theorem Polling.polls_busy {a s : State} {p : List HostOp} {ts : List Turn} (n : Nat)
    (h : Polling a s p (List.replicate n .host ++ ts)) (hbusy : a.busy = true) :
    ∃ s', (∀ k, Host.Core.run core (n + k) s = Host.Core.run core k s') ∧ Polling a s' p ts := by
  induction n generalizing s with
  | zero => exact ⟨s, fun k => by rw [Nat.zero_add], h⟩
  | succ n ih =>
    obtain ⟨s₁, hstep, h₁⟩ := Polling.poll_busy h hbusy
    obtain ⟨s', hrun, h'⟩ := ih h₁
    refine ⟨s', fun k => ?_, h'⟩
    rw [show n + 1 + k = n + k + 1 by omega]
    exact (run_of_step hstep (n + k)).trans (hrun k)

/-- The completion does not see the HOST (R226). -/
theorem Polling.complete {a s u : State} {p : List HostOp} {ts : List Turn} {w : Word} {i : Instr}
    (h : Polling a s p (.engine :: ts)) (hp : a.pend = some w) (hd : decodeWord w = .ok i)
    (hexec : exec i a = .next u) : ∃ s', step s = .next s' ∧ Polling u s' p ts := by
  obtain ⟨hcore, hviol, hhost, hturns⟩ := h
  have hcore' : AgreeOnCore { s with turns := ts } a := { hcore with }
  have hengine := engineStep_of_command (hcore'.pend.trans hp) hd
  have hviol' : u.viol = a.viol := by
    obtain ⟨st, sched, skv, gfP, outlen, buf, outcome, rfl⟩ := exec_eq_finish hexec
    rfl
  exact ⟨_, (step_of_turns_cons hturns).trans (hengine.trans (exec_of_agreeOnCore hcore' hexec)),
    agreeOnCore_withSurroundings u _, hviol.trans hviol'.symm, hhost, rfl⟩

/-- The poll after the completion ends the POLL and binds `t` to the STATUS word it read (R101). -/
theorem Polling.poll_done {u s : State} {p : List HostOp} {ts : List Turn} (h : Polling u s p (.host :: ts))
    (hbusy : u.busy = false) (hdone : u.done = true) :
    ∃ t, step s = .next t ∧ AgreeOnCore t u ∧ t.viol = u.viol ∧ t.host = p ∧ t.turns = ts ∧
      t.bound.lookup "t" = some (statusWord u) ∧ t.replies.head? = some (.read "t" (statusWord u) .okay) := by
  obtain ⟨hcore, hviol, hhost, hturns⟩ := h
  have hend : s.busy = false ∧ s.done = true := ⟨hcore.busy.trans hbusy, hcore.done.trans hdone⟩
  have hstatus : statusWord { s with turns := ts } = statusWord u := statusWord_of_agreeOnCore { hcore with } hviol
  have hpoll := (hostStep_poll_status (s := { s with turns := ts }) hhost).trans (by rw [if_pos hend, hstatus])
  have hstep := (step_of_turns_cons hturns).trans (congrArg Host.Outcome.next hpoll)
  refine ⟨_, hstep, { hcore with }, hviol, rfl, rfl, ?_, rfl⟩
  rw [recordRead_bound, Bindings.lookup_bind, if_pos rfl]

/-- Settles O60: the CMD line, the polls, the completion and the last poll, each by its own lemma. -/
theorem runWaitsForCompletion : Obligations.RunWaitsForCompletion := by
  unfold Obligations.RunWaitsForCompletion
  intro n s i p ts hwf hidle _ hhost hturns
  obtain ⟨u, hu⟩ := exec_advances i (accept s (encode i))
  obtain ⟨s₁, hissue, h₁⟩ := polling_of_issue hidle hhost hturns
  obtain ⟨s₂, hpolls, h₂⟩ := Polling.polls_busy n h₁ rfl
  obtain ⟨s₃, hcomplete, h₃⟩ := Polling.complete h₂ rfl (decodeWord_encode hwf) hu
  obtain ⟨hbusy, hdone, hviol⟩ : u.busy = false ∧ u.done = true ∧ u.viol = s.viol := by
    obtain ⟨st, sched, skv, gfP, outlen, buf, outcome, rfl⟩ := exec_eq_finish hu
    exact ⟨rfl, rfl, rfl⟩
  obtain ⟨t, hlast, hcore, hviol', hrest⟩ := Polling.poll_done h₃ hbusy hdone
  refine ⟨t, u, ?_, hu, hcore, hviol'.trans hviol, hrest⟩
  calc Host.Core.run core (n + 3) s
      = Host.Core.run core (n + 2) s₁ := run_of_step hissue (n + 2)
    _ = Host.Core.run core 2 s₂ := hpolls 2
    _ = Host.Core.run core 1 s₃ := run_of_step hcomplete 1
    _ = Host.Core.run core 0 t := run_of_step hlast 0
    _ = .next t := rfl

end Sys2Proof.Machine
end

section
/-! Bytes as elements of GF(2)[x] / (x^8+x^4+x^3+x+1): XOR is its addition and `gmul` its multiplication, so the laws of
`gmul` are those of a commutative ring (spec/40_field_and_tables.md R110 to R112). -/

namespace Sys2Proof.Machine

open Polynomial

theorem coeff_bit_X_pow (c : Bool) (i n : Nat) :
    (if c then X ^ i else 0 : (ZMod 2)[X]).coeff n = if n = i then (if c then 1 else 0) else 0 := by
  cases c <;> simp [coeff_X_pow]

/-- "Bit i of a byte is the coefficient of x^i" (R111); past bit 7 both are zero. -/
theorem bytePoly_coeff (a : Byte) (n : Nat) : (bytePoly a).coeff n = if a.getLsbD n then 1 else 0 := by
  simp only [bytePoly, finsetSum_coeff, coeff_bit_X_pow, Finset.sum_ite_eq, Finset.mem_range]
  by_cases hn : n < 8
  · rw [if_pos hn]
  · simp [hn, BitVec.getLsbD_of_ge a n (by omega)]

theorem bytePoly_injective : Function.Injective bytePoly := by
  intro a b h
  refine BitVec.eq_of_getLsbD_eq fun i _ => ?_
  have hcoeff := congrArg (coeff · i) h
  simp only [bytePoly_coeff] at hcoeff
  cases ha : a.getLsbD i <;> cases hb : b.getLsbD i <;> simp [ha, hb] at hcoeff ⊢

@[simp] theorem bytePoly_zero : bytePoly 0x00#8 = 0 := by
  ext n
  simp [bytePoly_coeff]

theorem bytePoly_xor (a b : Byte) : bytePoly (a ^^^ b) = bytePoly a + bytePoly b := by
  ext n
  simp only [bytePoly_coeff, coeff_add, BitVec.getLsbD_xor]
  cases a.getLsbD n <;> cases b.getLsbD n <;> decide

theorem bytePoly_degree_lt (a : Byte) : (bytePoly a).degree < 8 := by
  refine (degree_lt_iff_coeff_zero _ 8).mpr fun n hn => ?_
  rw [bytePoly_coeff, BitVec.getLsbD_of_ge a n hn]
  rfl

/-- Multiplication by x is the left shift, with bit 7 sent to x^8. -/
theorem X_mul_bytePoly (a : Byte) :
    X * bytePoly a = bytePoly (a <<< 1) + if a.getLsbD 7 then X ^ 8 else 0 := by
  ext n
  rw [coeff_add, bytePoly_coeff, coeff_bit_X_pow]
  cases n with
  | zero => simp
  | succ n =>
    rw [coeff_X_mul, bytePoly_coeff]
    obtain hn | rfl | hn := Nat.lt_trichotomy n 7
    · have hlt : n < 8 ∧ n + 1 < 8 := by omega
      simp [hn.ne, hlt]
    · simp
    · simp [hn.ne', BitVec.getLsbD_of_ge a n hn]

/-- Bit 0 apart, a byte is the double of its right shift: what one turn of the loop of R111 takes from b. -/
theorem bytePoly_shiftRight_one (b : Byte) :
    bytePoly b = (if b.getLsbD 0 then (1 : (ZMod 2)[X]) else 0) + X * bytePoly (b >>> 1) := by
  ext n
  rw [coeff_add, bytePoly_coeff]
  cases n with
  | zero => split <;> simp
  | succ n =>
    rw [coeff_X_mul, bytePoly_coeff, BitVec.getLsbD_ushiftRight, Nat.add_comm 1 n]
    cases b.getLsbD 0 <;> simp [coeff_one]

theorem aesPoly_eq : aesPoly = X ^ 8 + bytePoly 0x1B#8 := by
  simp [aesPoly, bytePoly, Finset.sum_range_succ]
  ring

theorem aesPoly_monic : aesPoly.Monic := by
  rw [aesPoly_eq]
  exact monic_X_pow_add (bytePoly_degree_lt _)

theorem aesPoly_degree : aesPoly.degree = 8 := by
  rw [aesPoly]
  compute_degree!

theorem bytePoly_modByMonic (a : Byte) : bytePoly a %ₘ aesPoly = bytePoly a := by
  rw [modByMonic_eq_self_iff aesPoly_monic, aesPoly_degree]
  exact bytePoly_degree_lt a

/-- Doubling is multiplication by x, less the modulus when the high bit overflows (R110). -/
theorem bytePoly_xtime (a : Byte) :
    bytePoly (xtime a) = X * bytePoly a + if a.getLsbD 7 then aesPoly else 0 := by
  have hcancel : (X ^ 8 + X ^ 8 : (ZMod 2)[X]) = 0 := CharTwo.add_self_eq_zero _
  rw [xtime, X_mul_bytePoly]
  split
  · rw [bytePoly_xor, aesPoly_eq]
    linear_combination -hcancel
  · simp

/-- The residue class of a byte's polynomial modulo x^8+x^4+x^3+x+1. -/
noncomputable def residue (a : Byte) : AdjoinRoot aesPoly := AdjoinRoot.mk aesPoly (bytePoly a)

theorem residue_eq_mk_iff (a : Byte) (p : (ZMod 2)[X]) :
    residue a = AdjoinRoot.mk aesPoly p ↔ bytePoly a = p %ₘ aesPoly := by
  rw [residue, AdjoinRoot.mk_eq_mk]
  constructor
  · intro h
    rw [← bytePoly_modByMonic a]
    exact modByMonic_eq_of_dvd_sub aesPoly_monic h
  · intro h
    rw [h, modByMonic_eq_sub_mul_div]
    exact ⟨-(p /ₘ aesPoly), by ring⟩

theorem residue_injective : Function.Injective residue := by
  intro a b h
  have hpoly := (residue_eq_mk_iff a (bytePoly b)).mp h
  exact bytePoly_injective (hpoly.trans (bytePoly_modByMonic b))

@[simp] theorem residue_zero : residue 0x00#8 = 0 := by
  rw [residue, bytePoly_zero, map_zero]

@[simp] theorem residue_one : residue 0x01#8 = 1 := by
  rw [residue, bytePoly_shiftRight_one]
  simp

@[simp] theorem residue_xor (a b : Byte) : residue (a ^^^ b) = residue a + residue b := by
  rw [residue, bytePoly_xor, map_add]
  rfl

@[simp] theorem residue_xtime (a : Byte) : residue (xtime a) = AdjoinRoot.root aesPoly * residue a := by
  rw [residue, bytePoly_xtime]
  split <;> simp [residue]

theorem residue_shiftRight_one (b : Byte) :
    residue b =
      (if b.getLsbD 0 then (1 : AdjoinRoot aesPoly) else 0) + AdjoinRoot.root aesPoly * residue (b >>> 1) := by
  rw [residue, bytePoly_shiftRight_one]
  split <;> simp [residue]

/-- The invariant of the loop of R111: p + a·b keeps its class while b is shifted out. -/
theorem residue_gmulLoop {n : Nat} {b : Byte} (h : b >>> n = 0x00#8) (p a : Byte) :
    residue (gmulLoop n p a b) = residue p + residue a * residue b := by
  induction n generalizing p a b with
  | zero =>
    have hb : b = 0x00#8 := by simpa using h
    simp [gmulLoop, hb]
  | succ n ih =>
    have hshift : (b >>> 1) >>> n = 0x00#8 := by rw [← BitVec.shiftRight_add, Nat.add_comm, h]
    have hp : residue (if b.getLsbD 0 then p ^^^ a else p) =
        residue p + residue a * (if b.getLsbD 0 then 1 else 0) := by
      split <;> simp
    rw [gmulLoop, ih hshift, hp, residue_xtime, residue_shiftRight_one b]
    ring

@[simp] theorem residue_gmul (a b : Byte) : residue (gmul a b) = residue a * residue b := by
  have hshift : b >>> 8 = 0x00#8 := BitVec.ushiftRight_eq_zero (Nat.le_refl 8)
  rw [gmul, residue_gmulLoop hshift, residue_zero, zero_add]

/-- Settles O22: the class of `gmul a b` is the product of the classes, and a byte's polynomial is the remainder of its
class. -/
theorem gmulIsPolynomialProduct : Obligations.GmulIsPolynomialProduct := by
  unfold Obligations.GmulIsPolynomialProduct
  intro a b
  refine (residue_eq_mk_iff _ _).mp ?_
  rw [residue_gmul, map_mul]
  rfl

theorem gmul_comm (a b : Byte) : gmul a b = gmul b a := residue_injective (by simp [mul_comm])

theorem gmul_assoc (a b c : Byte) : gmul a (gmul b c) = gmul (gmul a b) c := residue_injective (by simp [mul_assoc])

theorem gmul_xor (a b c : Byte) : gmul a (b ^^^ c) = gmul a b ^^^ gmul a c := residue_injective (by simp [mul_add])

@[simp] theorem gmul_one (a : Byte) : gmul a 0x01#8 = a := residue_injective (by simp)

@[simp] theorem gmul_zero (a : Byte) : gmul a 0x00#8 = 0x00#8 := residue_injective (by simp)

theorem gmul_two (a : Byte) : gmul a 0x02#8 = xtime a := by
  have htwo : residue 0x02#8 = AdjoinRoot.root aesPoly := by
    rw [show 0x02#8 = xtime 0x01#8 from rfl, residue_xtime, residue_one, mul_one]
  exact residue_injective (by rw [residue_gmul, htwo, residue_xtime, mul_comm])

theorem gmul_three (a : Byte) : gmul a 0x03#8 = xtime a ^^^ a := by
  rw [show 0x03#8 = 0x02#8 ^^^ 0x01#8 from rfl, gmul_xor, gmul_two, gmul_one]

theorem eq_of_gmul_eq_one {a b c : Byte} (hb : gmul a b = 0x01#8) (hc : gmul a c = 0x01#8) : b = c := by
  have hb : residue a * residue b = 1 := by rw [← residue_gmul, hb, residue_one]
  have hc : residue a * residue c = 1 := by rw [← residue_gmul, hc, residue_one]
  exact residue_injective (left_inv_eq_right_inv ((mul_comm _ _).trans hb) hc)

end Sys2Proof.Machine
end

section
/-! The multiplicative inverse and the tables built on it (spec/40_field_and_tables.md R112 to R117, R120). -/

namespace Sys2Proof.Machine

/-- The inverse of `affine`. -/
def invAffine (b : Byte) : Byte := rotl8 b 1 ^^^ rotl8 b 3 ^^^ rotl8 b 6 ^^^ 0x05#8

theorem affine_invAffine : ∀ b : Byte, affine (invAffine b) = b := by decide +kernel

/-- SBOX lists the inverses under `affine` (R114), so it is the certificate that every byte but 0 has one. -/
theorem gmul_invAffine_sbox : ∀ a : Byte, a ≠ 0x00#8 → gmul a (invAffine (sbox a)) = 0x01#8 := by decide +kernel

/-- Settles O23: the ring laws come from `residue`, the inverses from SBOX. -/
theorem gmulFieldLaws : Obligations.GmulFieldLaws := by
  unfold Obligations.GmulFieldLaws
  refine ⟨gmul_comm, gmul_assoc, gmul_xor, fun a => ⟨gmul_one a, gmul_zero a⟩, gmul_two, gmul_three, fun a ha => ?_⟩
  have hinv := gmul_invAffine_sbox a ha
  exact ⟨_, hinv, fun b hb => eq_of_gmul_eq_one hb hinv⟩

theorem mem_allBytes (b : Byte) : b ∈ allBytes :=
  List.mem_map.mpr ⟨b.toNat, List.mem_range.mpr b.isLt, by simp⟩

@[simp] theorem ginv_zero : ginv 0x00#8 = 0x00#8 := rfl

/-- The search of `ginv` meets an inverse, and there is only one to meet. -/
theorem ginv_eq_of_gmul_eq_one {a b : Byte} (h : gmul a b = 0x01#8) : ginv a = b := by
  have ha : a ≠ 0x00#8 := by
    rintro rfl
    rw [gmul_comm, gmul_zero] at h
    exact absurd h (by decide)
  rw [ginv, if_neg ha]
  cases hfind : allBytes.find? fun b => gmul a b == 0x01#8 with
  | none => exact absurd (beq_iff_eq.mpr h) (List.find?_eq_none.mp hfind b (mem_allBytes b))
  | some c => exact eq_of_gmul_eq_one (beq_iff_eq.mp (List.find?_some hfind :)) h

theorem ginv_eq_invAffine_sbox {a : Byte} (ha : a ≠ 0x00#8) : ginv a = invAffine (sbox a) :=
  ginv_eq_of_gmul_eq_one (gmul_invAffine_sbox a ha)

/-- Settles O24: an inverse exists, and `ginv` is equal to each. -/
theorem ginvIsTheInverse : Obligations.GinvIsTheInverse := by
  unfold Obligations.GinvIsTheInverse
  refine ⟨ginv_zero, fun a ha => ⟨?_, fun b hb => (ginv_eq_of_gmul_eq_one hb).symm⟩⟩
  rw [ginv_eq_invAffine_sbox ha]
  exact gmul_invAffine_sbox a ha

/-- Settles O14: `exec` on GFMUL is `execGfmul`, and the examples of R120 evaluate. -/
theorem gfmulMultiplies : Obligations.GfmulMultiplies := by
  unfold Obligations.GfmulMultiplies
  exact ⟨rfl, fun s => rfl, by decide, by decide, by decide⟩

theorem sbox_eq_affine_ginv (a : Byte) : sbox a = affine (ginv a) := by
  by_cases ha : a = 0x00#8
  · subst ha
    rfl
  · rw [ginv_eq_invAffine_sbox ha, affine_invAffine]

theorem invSbox_sbox : ∀ a : Byte, invSbox (sbox a) = a := by decide +kernel

/-- On finitely many bytes an inverse on one side is one on the other. -/
theorem sbox_invSbox (a : Byte) : sbox (invSbox a) = a :=
  Function.LeftInverse.rightInverse_of_card_le (f := invSbox) invSbox_sbox le_rfl a

/-- Settles O25: undoing `affine` on an entry of SBOX gives `ginv`, and INV_SBOX finds every entry. -/
theorem sboxConstruction : Obligations.SboxConstruction := by
  unfold Obligations.SboxConstruction
  exact ⟨sbox_eq_affine_ginv, invSbox_sbox, sbox_invSbox⟩

/-- Settles O26, entry by entry. -/
theorem rconIsSuccessiveDoublings : Obligations.RconIsSuccessiveDoublings := by
  unfold Obligations.RconIsSuccessiveDoublings
  refine ⟨rfl, rfl, fun i hlo hhi => ?_⟩
  interval_cases i <;> rfl

end Sys2Proof.Machine
end

section
/-! The key schedule word by word, and KEYEXP (spec/41_key_schedule.md R130 to R133). -/

namespace Sys2Proof.Machine

/-- Word `i` of the schedule, i in 0..43: the w_i of R133 (`getElem_expand` says that `expand` consists of these). -/
def scheduleWord (key : Block) (i : Nat) : SWord :=
  (scheduleWords key 40).reverse.getD i (Vector.replicate 4 0x00#8)

theorem getElem_expand (key : Block) {p : Nat} (hp : p < 176) :
    (expand key)[p] = (scheduleWord key (p / 4))[p % 4] := by
  unfold expand
  exact Vector.getElem_ofFn hp

theorem getElem_expand_word (key : Block) {i j : Nat} (hi : i < 44) (hj : j < 4) :
    (expand key)[4 * i + j] = (scheduleWord key i)[j] := by
  have hword : (4 * i + j) / 4 = i := by omega
  have hbyte : (4 * i + j) % 4 = j := by omega
  simp only [getElem_expand, hword, hbyte]

@[simp] theorem length_scheduleWords (key : Block) (n : Nat) : (scheduleWords key n).length = n + 4 := by
  induction n with
  | zero => rfl
  | succ n ih => simp [scheduleWords, ih]

/-- Later words go in front and change no earlier one. -/
theorem drop_scheduleWords (key : Block) (n k : Nat) : (scheduleWords key (n + k)).drop k = scheduleWords key n := by
  induction k with
  | zero => rfl
  | succ k ih => exact ih

/-- Entry m, counted from the latest, of the list that ends at word n + 3. -/
theorem getD_scheduleWords (key : Block) {n m : Nat} (hn : n ≤ 40) (hm : m ≤ n + 3) :
    (scheduleWords key n).getD m (Vector.replicate 4 0x00#8) = scheduleWord key (n + 3 - m) := by
  have hdrop := drop_scheduleWords key n (40 - n)
  rw [Nat.add_sub_cancel' hn] at hdrop
  have hindex : 40 - n + m = 43 - (n + 3 - m) := by omega
  rw [scheduleWord, List.getD_eq_getElem?_getD, List.getD_eq_getElem?_getD, List.getElem?_reverse (by simp; omega),
    length_scheduleWords, ← hdrop, List.getElem?_drop, hindex]

/-- "The first 16 bytes of the schedule equal `key`" (R130). -/
theorem scheduleWord_of_lt (key : Block) (k : Fin 4) : scheduleWord key k = keyWord key k := by
  have hfirst := getD_scheduleWords key (n := 0) (m := 3 - k) (by omega) (by omega)
  rw [show 0 + 3 - (3 - k.val) = k by omega] at hfirst
  rw [← hfirst]
  fin_cases k <;> rfl

/-- w_i = w_{i-4} ^ T_i(w_{i-1}) (R133). -/
theorem scheduleWord_rec (key : Block) {i : Nat} (hlo : 4 ≤ i) (hhi : i < 44) :
    scheduleWord key i = xorWord (scheduleWord key (i - 4)) (scheduleTemp i (scheduleWord key (i - 1))) := by
  obtain ⟨n, rfl⟩ := Nat.exists_eq_add_of_le' hlo
  calc scheduleWord key (n + 4)
    _ = nextWord (n + 4) (scheduleWords key n) := (getD_scheduleWords key (n := n + 1) (m := 0) (by omega) (by omega)).symm
    _ = _ := by
      rw [nextWord, getD_scheduleWords key (by omega) (by omega), getD_scheduleWords key (by omega) (by omega)]
      rfl

theorem getElem_xorWord (a b : SWord) {j : Nat} (hj : j < 4) : (xorWord a b)[j] = a[j] ^^^ b[j] :=
  Vector.getElem_zipWith hj

theorem scheduleTemp_of_mod_ne {i : Nat} (hi : i % 4 ≠ 0) (t : SWord) : scheduleTemp i t = t := if_neg hi

theorem getElem_rotWord (t : SWord) {j : Nat} (hj : j < 4) : (rotWord t)[j] = t[(j + 1) % 4] := by
  interval_cases j <;> rfl

theorem getElem_subWord (t : SWord) {j : Nat} (hj : j < 4) : (subWord t)[j] = sbox t[j] := Vector.getElem_map sbox hj

/-- T_i at a multiple of four: rotated, substituted, and RCON[i/4] on the first byte (R133). -/
theorem getElem_scheduleTemp_of_mod_eq {i j : Nat} (hi : i % 4 = 0) (hj : j < 4) (t : SWord) :
    (scheduleTemp i t)[j] = sbox t[(j + 1) % 4] ^^^ if j = 0 then rcon (i / 4) else 0x00#8 := by
  have hrcon : (#v[rcon (i / 4), 0x00#8, 0x00#8, 0x00#8] : SWord)[j] = if j = 0 then rcon (i / 4) else 0x00#8 := by
    interval_cases j <;> rfl
  simp only [scheduleTemp, if_pos hi]
  rw [getElem_xorWord, hrcon, getElem_subWord, getElem_rotWord]

/-- Settles O27: the first words are the key's, and each later byte is that byte of `scheduleWord_rec`. -/
theorem scheduleRecurrence : Obligations.ScheduleRecurrence := by
  unfold Obligations.ScheduleRecurrence
  refine fun key => ⟨fun p => ?_, fun i j h hi => ?_, fun i j h hi => ?_⟩
  · have hword := scheduleWord_of_lt key ⟨p.val / 4, by omega⟩
    rw [getElem_expand key (by omega), hword]
    simp only [keyWord, Vector.getElem_ofFn, Nat.div_add_mod]
  all_goals
    obtain ⟨hlo, hhi, hj⟩ := h
    rw [getElem_expand_word key hhi hj, getElem_expand_word key (by omega) hj, getElem_expand_word key (by omega) (by omega),
      scheduleWord_rec key hlo hhi, getElem_xorWord]
  · rw [scheduleTemp_of_mod_ne hi]
  · rw [getElem_scheduleTemp_of_mod_eq hi]

/-- Settles O13: `exec` on KEYEXP is `completeOk` after `deriveSchedule`. -/
theorem keyexpDerivesSchedule : Obligations.KeyexpDerivesSchedule := by
  unfold Obligations.KeyexpDerivesSchedule
  exact ⟨rfl, fun s => rfl⟩

end Sys2Proof.Machine
end

section
/-! The round transforms cell by cell, their inverse laws and their commands (spec/42_round_transforms.md R141 to R155). -/

namespace Sys2Proof.Machine

theorem subBytes_eq_map (st : Block) : subBytes st = st.map sbox := by unfold subBytes; rfl

theorem invSubBytes_eq_map (st : Block) : invSubBytes st = st.map invSbox := by unfold invSubBytes; rfl

@[simp] theorem cell_subBytes (st : Block) (r c : Fin 4) : cell (subBytes st) r c = sbox (cell st r c) := by
  rw [subBytes_eq_map]
  exact Vector.getElem_map ..

@[simp] theorem cell_invSubBytes (st : Block) (r c : Fin 4) : cell (invSubBytes st) r c = invSbox (cell st r c) := by
  rw [invSubBytes_eq_map]
  exact Vector.getElem_map ..

@[simp] theorem cell_shiftRows (st : Block) (r c : Fin 4) : cell (shiftRows st) r c = cell st r (c + r) := by
  unfold shiftRows
  exact cell_ofMatrix ..

@[simp] theorem cell_invShiftRows (st : Block) (r c : Fin 4) : cell (invShiftRows st) r c = cell st r (c - r) := by
  unfold invShiftRows
  exact cell_ofMatrix ..

@[simp] theorem cell_mixWith (m : Matrix4) (st : Block) (r c : Fin 4) :
    cell (mixWith m st) r c = gmul m[r][0] (cell st 0 c) ^^^ gmul m[r][1] (cell st 1 c) ^^^ gmul m[r][2] (cell st 2 c) ^^^
      gmul m[r][3] (cell st 3 c) :=
  cell_ofMatrix ..

theorem mixColumns_eq_mixWith (st : Block) : mixColumns st = mixWith mixMatrix st := by unfold mixColumns; rfl

theorem invMixColumns_eq_mixWith (st : Block) : invMixColumns st = mixWith invMixMatrix st := by unfold invMixColumns; rfl

@[simp] theorem cell_addRoundKey (st : Block) (w : Schedule) (round : Fin 11) (r c : Fin 4) :
    cell (addRoundKey st w round) r c = cell st r c ^^^ w[16 * round.val + 4 * c.val + r.val] := by
  unfold addRoundKey
  exact cell_ofMatrix ..

/-- R153 by the byte's index in the block. -/
theorem getElem_addRoundKey (st : Block) (w : Schedule) (round : Fin 11) (i : Fin 16) :
    (addRoundKey st w round)[i.val] = st[i.val] ^^^ w[16 * round.val + i.val] := by
  have hcell := cell_addRoundKey st w round ⟨i.val % 4, by omega⟩ ⟨i.val / 4, by omega⟩
  simpa only [cell, Nat.add_assoc, Nat.div_add_mod] using hcell

/-- The product of two matrices over the field. -/
def mulMatrix (m n : Matrix4) : Matrix4 :=
  Vector.ofFn fun r : Fin 4 => Vector.ofFn fun k : Fin 4 =>
    gmul m[r][0] n[0][k] ^^^ gmul m[r][1] n[1][k] ^^^ gmul m[r][2] n[2][k] ^^^ gmul m[r][3] n[3][k]

theorem getElem_mulMatrix (m n : Matrix4) {r k : Nat} (hr : r < 4) (hk : k < 4) : (mulMatrix m n)[r][k] =
    gmul m[r][0] n[0][k] ^^^ gmul m[r][1] n[1][k] ^^^ gmul m[r][2] n[2][k] ^^^ gmul m[r][3] n[3][k] := by
  simp only [mulMatrix, Fin.getElem_fin, Vector.getElem_ofFn]

def identityMatrix : Matrix4 := #v[
  #v[0x01#8, 0x00#8, 0x00#8, 0x00#8],
  #v[0x00#8, 0x01#8, 0x00#8, 0x00#8],
  #v[0x00#8, 0x00#8, 0x01#8, 0x00#8],
  #v[0x00#8, 0x00#8, 0x00#8, 0x01#8]]

/-- Mixing twice is mixing once with the product: the ring laws are those of `residue`. -/
theorem mixWith_mixWith (m n : Matrix4) (st : Block) : mixWith m (mixWith n st) = mixWith (mulMatrix m n) st := by
  refine block_ext fun r c => residue_injective ?_
  simp only [cell_mixWith, Fin.getElem_fin, Fin.coe_ofNat_eq_mod, getElem_mulMatrix, residue_xor, residue_gmul]
  ring

theorem mixWith_identityMatrix (st : Block) : mixWith identityMatrix st = st := by
  refine block_ext fun r c => ?_
  simp only [cell_mixWith, gmul_comm _ (cell st _ c)]
  fin_cases r <;> simp [identityMatrix]

/-- The matrix of R151 is the inverse of that of R149. -/
theorem mulMatrix_invMixMatrix_mixMatrix : mulMatrix invMixMatrix mixMatrix = identityMatrix := by decide

theorem invMixColumns_mixColumns (st : Block) : invMixColumns (mixColumns st) = st := by
  rw [invMixColumns_eq_mixWith, mixColumns_eq_mixWith, mixWith_mixWith, mulMatrix_invMixMatrix_mixMatrix,
    mixWith_identityMatrix]

theorem invShiftRows_shiftRows (st : Block) : invShiftRows (shiftRows st) = st :=
  block_ext fun r c => by rw [cell_invShiftRows, cell_shiftRows, sub_add_cancel]

theorem invSubBytes_subBytes (st : Block) : invSubBytes (subBytes st) = st :=
  block_ext fun r c => by rw [cell_invSubBytes, cell_subBytes, invSbox_sbox]

theorem addRoundKey_addRoundKey (st : Block) (w : Schedule) (round : Fin 11) :
    addRoundKey (addRoundKey st w round) w round = st :=
  block_ext fun r c => by
    rw [cell_addRoundKey, cell_addRoundKey, BitVec.xor_assoc, BitVec.xor_self, BitVec.xor_zero]

theorem subBytes_shiftRows (st : Block) : subBytes (shiftRows st) = shiftRows (subBytes st) :=
  block_ext fun r c => by rw [cell_subBytes, cell_shiftRows, cell_shiftRows, cell_subBytes]

theorem invSubBytes_invShiftRows (st : Block) : invSubBytes (invShiftRows st) = invShiftRows (invSubBytes st) :=
  block_ext fun r c => by rw [cell_invSubBytes, cell_invShiftRows, cell_invShiftRows, cell_invSubBytes]

/-- Settles O28, law by law. -/
theorem transformInverseLaws : Obligations.TransformInverseLaws := by
  unfold Obligations.TransformInverseLaws
  exact ⟨invMixColumns_mixColumns, invShiftRows_shiftRows, invSubBytes_subBytes, addRoundKey_addRoundKey,
    subBytes_shiftRows, invSubBytes_invShiftRows⟩

/-- Settles O17: each byte of a column is a cell of `mixWith`, whose coefficients are a row of the matrix. -/
theorem columnCommands : Obligations.ColumnCommands := by
  unfold Obligations.ColumnCommands
  refine fun s => ⟨mixColumns s.st, invMixColumns s.st, rfl, rfl, fun c => ?_⟩
  have hmix := cell_mixWith mixMatrix s.st (c := c)
  have hinv := cell_mixWith invMixMatrix s.st (c := c)
  rw [mixColumns_eq_mixWith, invMixColumns_eq_mixWith]
  exact ⟨hmix 0, hmix 1, hmix 2, hmix 3, hinv 0, hinv 1, hinv 2, hinv 3⟩

theorem exec_addroundkey_of_gt {r : Nat} (hr : 10 < r) (s : State) :
    exec (.addroundkey r) s = .next (raiseError .badRound s) :=
  dif_pos hr

theorem exec_addroundkey_of_skv_false {r : Nat} (hr : r ≤ 10) {s : State} (hskv : s.skv = false) :
    exec (.addroundkey r) s = .next (raiseError .noSchedule s) :=
  (dif_neg (Nat.not_lt.mpr hr)).trans (if_pos hskv)

theorem exec_addroundkey_of_skv (r : Fin 11) {s : State} (hskv : s.skv = true) :
    exec (.addroundkey r.val) s = .next (completeOk { s with st := addRoundKey s.st s.sched r }) :=
  (dif_neg (show ¬ r.val > 10 by omega)).trans (if_neg (by simp [hskv]))

/-- Settles O18: the third arm of ADDROUNDKEY, with R153 by index. -/
theorem addroundkeyXorsRoundKey : Obligations.AddroundkeyXorsRoundKey := by
  unfold Obligations.AddroundkeyXorsRoundKey
  exact fun s r hskv => ⟨_, exec_addroundkey_of_skv r hskv, getElem_addRoundKey s.st s.sched r⟩

/-- Settles O19: the two error arms of ADDROUNDKEY, the round's first. -/
theorem addroundkeyErrors : Obligations.AddroundkeyErrors := by
  unfold Obligations.AddroundkeyErrors
  exact fun s r => ⟨fun hr => exec_addroundkey_of_gt hr s, fun hr hskv => exec_addroundkey_of_skv_false hr hskv⟩

/-- Settles O15: `subBytes` and `invSubBytes` are the maps of the two tables. -/
theorem substitutionCommands : Obligations.SubstitutionCommands := by
  unfold Obligations.SubstitutionCommands
  intro s
  rw [← subBytes_eq_map, ← invSubBytes_eq_map]
  exact ⟨rfl, rfl⟩

/-- R145 as the list of the bytes' old indexes. -/
theorem shiftRows_eq (st : Block) : shiftRows st =
    #v[st[0], st[5], st[10], st[15], st[4], st[9], st[14], st[3],
       st[8], st[13], st[2], st[7], st[12], st[1], st[6], st[11]] := by
  refine block_ext fun r c => ?_
  rw [cell_shiftRows]
  fin_cases r <;> fin_cases c <;> rfl

/-- R147 as the list of the bytes' old indexes. -/
theorem invShiftRows_eq (st : Block) : invShiftRows st =
    #v[st[0], st[13], st[10], st[7], st[4], st[1], st[14], st[11],
       st[8], st[5], st[2], st[15], st[12], st[9], st[6], st[3]] := by
  refine block_ext fun r c => ?_
  rw [cell_invShiftRows]
  fin_cases r <;> fin_cases c <;> rfl

/-- Settles O16, by the two lists of old indexes. -/
theorem rotationCommands : Obligations.RotationCommands := by
  unfold Obligations.RotationCommands
  intro s
  rw [← shiftRows_eq, ← invShiftRows_eq]
  exact ⟨rfl, rfl⟩

end Sys2Proof.Machine
end

section
/-! The round sequences, the sequencer that runs them, and the two block commands (spec/43_block_cipher.md R171 to R177). -/

namespace Sys2Proof.Machine

theorem cipher_eq_runSteps (x : Block) (w : Schedule) : cipher x w = runSteps w encSeq x := by unfold cipher; rfl

theorem invCipher_eq_runSteps (x : Block) (w : Schedule) : invCipher x w = runSteps w decSeq x := by unfold invCipher; rfl

@[simp] theorem runSteps_nil (w : Schedule) (x : Block) : runSteps w [] x = x := rfl

@[simp] theorem runSteps_cons (w : Schedule) (step : RoundStep) (steps : List RoundStep) (x : Block) :
    runSteps w (step :: steps) x = runSteps w steps (applyStep w x step) := rfl

@[simp] theorem runSteps_append (w : Schedule) (steps steps' : List RoundStep) (x : Block) :
    runSteps w (steps ++ steps') x = runSteps w steps' (runSteps w steps x) :=
  List.foldl_append

@[simp] theorem length_seqOf (dir : Direction) : (seqOf dir).length = 40 := by cases dir <;> rfl

/-- Settles O29: the listed steps by evaluation at each index, and R174's round at the eleven AddRoundKey steps. -/
theorem sequenceRounds : Obligations.SequenceRounds := by
  unfold Obligations.SequenceRounds
  refine ⟨⟨rfl, rfl, ?_, rfl, rfl, rfl⟩, ⟨rfl, rfl, ?_, rfl, rfl, rfl⟩, ?_, ?_⟩
  · intro r
    fin_cases r <;> exact ⟨rfl, rfl, rfl, rfl⟩
  · intro r
    fin_cases r <;> exact ⟨rfl, rfl, rfl, rfl⟩
  · decide
  · decide

theorem sequencerStep_of_some {w : Schedule} {q : Sequencer} {step : RoundStep} (h : (seqOf q.dir)[q.k]? = some step) :
    sequencerStep w q = { q with k := q.k + 1, x := applyStep w q.x step } := by
  rw [sequencerStep, h]

theorem sequencerStep_of_none {w : Schedule} {q : Sequencer} (h : (seqOf q.dir)[q.k]? = none) :
    sequencerStep w q = q := by
  rw [sequencerStep, h]

/-- The last of `n + 1` sequencer steps, where `runSequencer` peels off the first. -/
theorem runSequencer_succ (w : Schedule) (n : Nat) (q : Sequencer) :
    runSequencer w (n + 1) q = sequencerStep w (runSequencer w n q) := by
  induction n generalizing q with
  | zero => rfl
  | succ n ih => exact ih (sequencerStep w q)

theorem runSequencer_eq (w : Schedule) (dir : Direction) (x : Block) (n : Nat) :
    runSequencer w n ⟨dir, 0, x⟩ = ⟨dir, min n 40, runSteps w ((seqOf dir).take n) x⟩ := by
  induction n with
  | zero => rfl
  | succ n ih =>
    rw [runSequencer_succ, ih, List.take_add_one]
    rcases Nat.lt_or_ge n 40 with hn | hn
    · have hstep : (seqOf dir)[n]? = some ((seqOf dir)[n]'(by simpa)) := List.getElem?_eq_getElem _
      rw [Nat.min_eq_left hn.le, Nat.min_eq_left hn, sequencerStep_of_some hstep, hstep, runSteps_append]
      rfl
    · have hdone : (seqOf dir)[n]? = none := List.getElem?_eq_none (by simpa)
      have hend : (seqOf dir)[40]? = none := List.getElem?_eq_none (by simp)
      rw [Nat.min_eq_right hn, Nat.min_eq_right (by omega), sequencerStep_of_none hend, hdone]
      simp

/-- From the 40th step on the whole sequence has run. -/
theorem runSequencer_of_le (w : Schedule) (dir : Direction) (x : Block) {n : Nat} (hn : 40 ≤ n) :
    runSequencer w n ⟨dir, 0, x⟩ = ⟨dir, 40, runSteps w (seqOf dir) x⟩ := by
  rw [runSequencer_eq, Nat.min_eq_right hn, List.take_of_length_le (by simpa)]

/-- Settles O30, by induction on the number of steps. -/
theorem sequencerRunsTheSequence : Obligations.SequencerRunsTheSequence := by
  unfold Obligations.SequencerRunsTheSequence
  refine ⟨runSequencer_eq, fun w x n hn => ?_⟩
  rw [cipher_eq_runSteps, invCipher_eq_runSteps]
  exact ⟨runSequencer_of_le w .enc x hn, runSequencer_of_le w .dec x hn⟩

/-- The step that undoes a step under the same schedule (R155). -/
def RoundStep.inverse : RoundStep → RoundStep
  | .sub => .invSub
  | .shift => .invShift
  | .mix => .invMix
  | .ark round => .ark round
  | .invSub => .sub
  | .invShift => .shift
  | .invMix => .mix

theorem mulMatrix_mixMatrix_invMixMatrix : mulMatrix mixMatrix invMixMatrix = identityMatrix := by decide

theorem mixColumns_invMixColumns (st : Block) : mixColumns (invMixColumns st) = st := by
  rw [mixColumns_eq_mixWith, invMixColumns_eq_mixWith, mixWith_mixWith, mulMatrix_mixMatrix_invMixMatrix,
    mixWith_identityMatrix]

theorem shiftRows_invShiftRows (st : Block) : shiftRows (invShiftRows st) = st :=
  block_ext fun r c => by rw [cell_shiftRows, cell_invShiftRows, add_sub_cancel_right]

theorem subBytes_invSubBytes (st : Block) : subBytes (invSubBytes st) = st :=
  block_ext fun r c => by rw [cell_subBytes, cell_invSubBytes, sbox_invSbox]

@[simp] theorem applyStep_inverse (w : Schedule) (x : Block) (step : RoundStep) :
    applyStep w (applyStep w x step) step.inverse = x := by
  cases step with
  | sub => exact invSubBytes_subBytes x
  | shift => exact invShiftRows_shiftRows x
  | mix => exact invMixColumns_mixColumns x
  | ark round => exact addRoundKey_addRoundKey x w round
  | invSub => exact subBytes_invSubBytes x
  | invShift => exact shiftRows_invShiftRows x
  | invMix => exact mixColumns_invMixColumns x

/-- The inverse steps in the opposite order undo a sequence. -/
theorem runSteps_reverse_inverse (w : Schedule) (steps : List RoundStep) (x : Block) :
    runSteps w (steps.map .inverse).reverse (runSteps w steps x) = x := by
  induction steps generalizing x with
  | nil => rfl
  | cons step steps ih => simp [ih]

/-- DEC_SEQ is ENC_SEQ backwards, step by step inverted: AddRoundKey comes before InvMixColumns (R172). -/
theorem decSeq_eq_reverse_inverse : decSeq = (encSeq.map .inverse).reverse := rfl

theorem invCipher_cipher (p : Block) (w : Schedule) : invCipher (cipher p w) w = p := by
  rw [cipher_eq_runSteps, invCipher_eq_runSteps, decSeq_eq_reverse_inverse, runSteps_reverse_inverse]

/-- Settles O20: `exec` on ENCBLOCK is `completeOk` after `deriveSchedule` and `cipher`. -/
theorem encblockEncrypts : Obligations.EncblockEncrypts := by
  unfold Obligations.EncblockEncrypts
  exact ⟨rfl, fun s => rfl⟩

/-- Settles O21: `exec` on DECBLOCK is `completeOk` after `deriveSchedule` and `invCipher`. -/
theorem decblockDecrypts : Obligations.DecblockDecrypts := by
  unfold Obligations.DecblockDecrypts
  exact ⟨rfl, fun s => rfl⟩

/-- Settles O31: ENCBLOCK leaves KEY, so DECBLOCK derives the same schedule. -/
theorem decryptionInvertsEncryption : Obligations.DecryptionInvertsEncryption := by
  unfold Obligations.DecryptionInvertsEncryption
  obtain ⟨-, hencblock⟩ := encblockEncrypts
  obtain ⟨-, hdecblock⟩ := decblockDecrypts
  exact ⟨invCipher_cipher, fun s => ⟨_, _, hencblock s, hdecblock _, invCipher_cipher s.st (expand s.key)⟩⟩

end Sys2Proof.Machine
end

section
/-! PKCS7 padding and its check (spec/44_ecb.md R190 to R192). -/

namespace Sys2Proof.Machine

@[simp] theorem pkcs7Pad_length (b : List Byte) : (pkcs7Pad b).length = b.length + padCount b.length := by
  simp [pkcs7Pad]

theorem getElem_pkcs7Pad_of_le {b : List Byte} {i : Nat} (h : i < (pkcs7Pad b).length) (hi : b.length ≤ i) :
    (pkcs7Pad b)[i] = BitVec.ofNat 8 (padCount b.length) := by
  simp only [pkcs7Pad, List.getElem_append_right hi, padding, List.getElem_replicate]

/-- Settles O32: the lengths by arithmetic on `padCount`, the bytes past the input by `getElem_pkcs7Pad_of_le`. -/
theorem paddingLaws : Obligations.PaddingLaws := by
  unfold Obligations.PaddingLaws
  intro b
  have hlen : (pkcs7Pad b).length = b.length + (16 - b.length % 16) := pkcs7Pad_length b
  refine ⟨hlen, ?_, ?_, ?_, ?_, fun i h hi => getElem_pkcs7Pad_of_le h hi⟩ <;> omega

/-- The check of R192 answers P when P is in range and the last P bytes have the value P. -/
theorem paddingCheck_eq_some_iff {n p : Nat} {get : Nat → Byte} (hn : 16 ≤ n) :
    paddingCheck n get = some p ↔ 1 ≤ p ∧ p ≤ 16 ∧ ∀ k < p, get (n - p + k) = BitVec.ofNat 8 p := by
  constructor
  · intro h
    simp only [paddingCheck] at h
    split_ifs at h with hrange hall
    cases h
    refine ⟨by omega, by omega, ?_⟩
    simpa using hall
  · rintro ⟨hlo, hhi, hall⟩
    have hlast : get (n - 1) = BitVec.ofNat 8 p := by
      simpa only [show n - p + (p - 1) = n - 1 by omega] using hall (p - 1) (by omega)
    have hp : (BitVec.ofNat 8 p).toNat = p := by rw [BitVec.toNat_ofNat]; omega
    simp only [paddingCheck, hlast, hp]
    rw [if_neg (by omega), if_pos (by simpa using hall)]

/-- A sequence ends in p bytes b exactly when each of its last p bytes is b. -/
theorem exists_append_replicate_iff {d : List Byte} {p : Nat} {b : Byte} (hp : p ≤ d.length) :
    (∃ body, d = body ++ List.replicate p b) ↔ ∀ k < p, d.getD (d.length - p + k) 0x00#8 = b := by
  constructor
  · rintro ⟨body, rfl⟩ k hk
    simp [List.getD_eq_getElem?_getD, hk]
  · intro h
    have hdrop : d.drop (d.length - p) = List.replicate p b := by
      refine List.ext_getElem (by simp; omega) fun k hk _ => ?_
      simp only [List.length_drop] at hk
      rw [List.getElem_drop, List.getElem_replicate, ← h k (by omega), List.getD_eq_getElem]
    exact ⟨d.take (d.length - p), by rw [← hdrop, List.take_append_drop]⟩

/-- R192 on a byte sequence. -/
theorem pkcs7Check_eq_some_iff {d : List Byte} {p : Nat} (hd : 16 ≤ d.length) :
    pkcs7Check d = some p ↔ 1 ≤ p ∧ p ≤ 16 ∧ ∃ body, d = body ++ List.replicate p (BitVec.ofNat 8 p) := by
  rw [pkcs7Check, paddingCheck_eq_some_iff hd]
  refine and_congr_right fun _ => and_congr_right fun hhi => ?_
  rw [exists_append_replicate_iff (hhi.trans hd)]

/-- Settles O33: `paddingCheck` reads the last P bytes, which `exists_append_replicate_iff` says are the sequence's end. -/
theorem paddingCheckFindsPadding : Obligations.PaddingCheckFindsPadding := by
  unfold Obligations.PaddingCheckFindsPadding
  intro d p hpos hmod
  exact pkcs7Check_eq_some_iff (by omega)

/-- Padding passes its own check (R190, R192). -/
@[simp] theorem pkcs7Check_pkcs7Pad (b : List Byte) : pkcs7Check (pkcs7Pad b) = some (padCount b.length) := by
  obtain ⟨hlo, hhi, hmod⟩ := padCount_range b.length
  have hlen : 16 ≤ (pkcs7Pad b).length := by rw [pkcs7Pad_length]; omega
  exact (pkcs7Check_eq_some_iff hlen).mpr ⟨hlo, hhi, b, rfl⟩

end Sys2Proof.Machine
end

section
/-! The byte-sequence functions of R193 and R194, byte by byte, and that decryption undoes encryption (R205). -/

namespace Sys2Proof.Machine

/-- Byte i of the result is byte i mod 16 of f of block i div 16. -/
theorem getElem_mapBlocks (f : Block → Block) (x : List Byte) {i : Nat} (h : i < (mapBlocks f x).length) :
    (mapBlocks f x)[i] = (f (blockAt x (i / 16)))[i % 16] := by
  have hmap : mapBlocks f x = (List.range (16 * (x.length / 16))).map fun i => (f (blockAt x (i / 16)))[i % 16] := by
    rw [range_blocks, mapBlocks]
    refine List.flatMap_congr fun j _ => List.ext_getElem (by simp) fun i hi _ => ?_
    have hi : i < 16 := by simpa using hi
    simp [show (16 * j + i) / 16 = j by omega, Nat.mod_eq_of_lt hi]
  simp [hmap]

theorem getElem_blockAt {x : List Byte} {j i : Nat} (hi : i < 16) (h : 16 * j + i < x.length) :
    (blockAt x j)[i] = x[16 * j + i] := by
  simp [blockAt, h]

/-- A whole block of the result is f of that block alone (R203). -/
theorem blockAt_mapBlocks (f : Block → Block) {x : List Byte} {j : Nat} (h : 16 * j + 16 ≤ x.length) :
    blockAt (mapBlocks f x) j = f (blockAt x j) := by
  apply Vector.ext
  intro i hi
  rw [getElem_blockAt hi (by rw [mapBlocks_length]; omega), getElem_mapBlocks]
  simp only [show (16 * j + i) / 16 = j by omega, show (16 * j + i) % 16 = i by omega]

/-- A block pass undoes another on whole blocks when it does so on each block. -/
theorem mapBlocks_mapBlocks_of_leftInverse {f g : Block → Block} (hgf : Function.LeftInverse g f) {x : List Byte}
    (hx : x.length % 16 = 0) : mapBlocks g (mapBlocks f x) = x := by
  refine List.ext_getElem (by simp only [mapBlocks_length]; omega) fun i _ hi => ?_
  rw [getElem_mapBlocks, blockAt_mapBlocks f (by omega), hgf, getElem_blockAt (by omega) (by omega)]
  simp only [Nat.div_add_mod]

@[simp] theorem ecbEncryptBytes_length (b : List Byte) (k : Block) :
    (ecbEncryptBytes b k).length = b.length + padCount b.length := by
  obtain ⟨-, -, hmod⟩ := padCount_range b.length
  rw [ecbEncryptBytes, mapBlocks_length, pkcs7Pad_length]
  omega

theorem ecbDecryptBytes_of_check_none {c : List Byte} {k : Block} (hpos : 0 < c.length) (hmod : c.length % 16 = 0)
    (h : pkcs7Check (mapBlocks (fun x => invCipher x (expand k)) c) = none) :
    ecbDecryptBytes c k = .error .invalidPadding := by
  simp [ecbDecryptBytes, hmod, hpos.ne', h]

theorem ecbDecryptBytes_of_check_some {c : List Byte} {k : Block} {p : Nat} (hpos : 0 < c.length)
    (hmod : c.length % 16 = 0) (h : pkcs7Check (mapBlocks (fun x => invCipher x (expand k)) c) = some p) :
    ecbDecryptBytes c k =
      .ok ((mapBlocks (fun x => invCipher x (expand k)) c).take (c.length - p), c.length - p) := by
  have hlen : 16 * (c.length / 16) = c.length := by omega
  simp [ecbDecryptBytes, hmod, hpos.ne', h, hlen]

/-- The first law of R205. -/
theorem ecbDecryptBytes_ecbEncryptBytes (b : List Byte) (k : Block) :
    ecbDecryptBytes (ecbEncryptBytes b k) k = .ok (b, b.length) := by
  obtain ⟨hlo, -, hmod⟩ := padCount_range b.length
  have hdecrypted : mapBlocks (fun x => invCipher x (expand k)) (ecbEncryptBytes b k) = pkcs7Pad b :=
    mapBlocks_mapBlocks_of_leftInverse (fun x => invCipher_cipher x (expand k)) (by rwa [pkcs7Pad_length])
  rw [ecbDecryptBytes_of_check_some (p := padCount b.length) (by rw [ecbEncryptBytes_length]; omega)
    (by rwa [ecbEncryptBytes_length]) (by rw [hdecrypted, pkcs7Check_pkcs7Pad]), hdecrypted, ecbEncryptBytes_length,
    Nat.add_sub_cancel, pkcs7Pad, List.take_left]

end Sys2Proof.Machine
end

section
/-! ECBENC (spec/44_ecb.md R195 to R197, R203, R204). -/

namespace Sys2Proof.Machine

/-- Block j of BUF is made of its bytes. -/
theorem getElem_readBlock (s : State) {j i : Nat} (hi : i < 16) :
    (readBlock s.bufEpoch s.buf j)[i] = s.bufByte (16 * j + i) := by
  simp [readBlock, State.bufByte]

/-- `read_cryptBlocks` block by block (R203). -/
theorem readBlock_cryptBlocks (f : Block → Block) (e : Nat) {n j : Nat} {m : Memory} (hm : m.wf) (hj : j < n) :
    readBlock e (cryptBlocks f e n m) j = f (readBlock e m j) := by
  apply Vector.ext
  intro i hi
  simp only [readBlock, Vector.getElem_ofFn]
  rw [read_cryptBlocks f e n hm, if_pos (by omega)]
  simp only [show (16 * j + i) / 16 = j by omega, show (16 * j + i) % 16 = i by omega, readBlock]

/-- Bytes written from index i on leave a block below i as it was. -/
theorem readBlock_writeBytes_of_le (e : Nat) {m : Memory} (hm : m.wf) {i j : Nat} (hj : 16 * j + 16 ≤ i)
    (bs : List Byte) : readBlock e (m.writeBytes i bs) j = readBlock e m j := by
  refine congrArg Vector.ofFn (funext fun k => ?_)
  rw [Memory.read_writeBytes hm, if_neg (by omega)]

/-- BUF as ECBENC leaves it when LEN < BUF_SIZE (R195). -/
def ecbencBuf (s : State) : Memory :=
  cryptBlocks (fun x => cipher x (expand s.key)) s.bufEpoch ((s.len.toNat + padCount s.len.toNat) / 16)
    (s.buf.writeBytes s.len.toNat (padding s.len.toNat))

theorem exec_ecbenc_of_lt {s : State} (h : s.len.toNat < s.cfg.bufSize) :
    exec .ecbenc s = .next (completeOk { deriveSchedule s with
      buf := ecbencBuf s, outlen := BitVec.ofNat 32 (s.len.toNat + padCount s.len.toNat) }) :=
  if_neg h.not_ge

/-- Settles O35: the guard of R196 comes before every write. -/
theorem ecbencOverflow : Obligations.EcbencOverflow := by
  unfold Obligations.EcbencOverflow
  intro s h
  exact if_pos h

theorem ecbencBuf_reads {s : State} (hbuf : s.bufOk) :
    (List.range (s.len.toNat + padCount s.len.toNat)).map ((ecbencBuf s).read s.bufEpoch) =
      ecbEncryptBytes (s.bufBytes s.len.toNat) s.key := by
  obtain ⟨hwf, -⟩ := hbuf
  obtain ⟨-, -, hmod⟩ := padCount_range s.len.toNat
  have hblocks : 16 * ((s.len.toNat + padCount s.len.toNat) / 16) = s.len.toNat + padCount s.len.toNat := by omega
  have hreads := cryptBlocks_reads (fun x => cipher x (expand s.key)) s.bufEpoch
    ((s.len.toNat + padCount s.len.toNat) / 16) (Memory.wf_writeBytes hwf s.len.toNat (padding s.len.toNat))
  rw [hblocks, padding_reads s.bufEpoch s.len.toNat hwf] at hreads
  exact hreads

/-- ECBENC keeps every byte past the padded length (R197). -/
theorem ecbencBuf_read_of_le {s : State} (hbuf : s.bufOk) {i : Nat} (hi : s.len.toNat + padCount s.len.toNat ≤ i) :
    (ecbencBuf s).read s.bufEpoch i = s.bufByte i := by
  obtain ⟨hwf, -⟩ := hbuf
  rw [ecbencBuf, read_cryptBlocks _ _ _ (Memory.wf_writeBytes hwf _ _), if_neg (by omega),
    Memory.read_writeBytes hwf, if_neg (by rw [padding_length]; omega), State.bufByte]

/-- Padding starts past a whole block of the input, so ECBENC leaves the encryption of that block alone (R203). -/
theorem readBlock_ecbencBuf {s : State} (hbuf : s.bufOk) {j : Nat} (hj : 16 * j + 16 ≤ s.len.toNat) :
    readBlock s.bufEpoch (ecbencBuf s) j = cipher (readBlock s.bufEpoch s.buf j) (expand s.key) := by
  obtain ⟨hwf, -⟩ := hbuf
  rw [ecbencBuf, readBlock_cryptBlocks _ _ (Memory.wf_writeBytes hwf _ _) (by omega),
    readBlock_writeBytes_of_le _ hwf hj]

theorem padded_toNat {s : State} (h : s.len.toNat < s.cfg.bufSize) :
    (BitVec.ofNat 32 (s.len.toNat + padCount s.len.toNat)).toNat = s.len.toNat + padCount s.len.toNat := by
  have hfit := padded_le s.cfg s.len.toNat h
  obtain ⟨-, hmax, -⟩ := bufSize_range s.cfg
  rw [BitVec.toNat_ofNat]
  omega

/-- Settles O34: OUTLEN holds the padded length, and the bytes are those of `ecbencBuf`. -/
theorem ecbencEncryptsBuffer : Obligations.EcbencEncryptsBuffer := by
  unfold Obligations.EcbencEncryptsBuffer
  intro s hbuf hlen
  have houtlen := padded_toNat hlen
  refine ⟨ecbencBuf s, _, exec_ecbenc_of_lt hlen, rfl, houtlen, ?_, ?_, fun i hi => ?_⟩
  · exact houtlen.trans_le (padded_le s.cfg s.len.toNat hlen)
  · exact (congrArg _ houtlen).trans (ecbencBuf_reads hbuf)
  · exact ecbencBuf_read_of_le hbuf (houtlen.symm.trans_le hi)

/-- Settles O39: by `readBlock_ecbencBuf` a block of the result is a function of the input's block. -/
theorem ecbBlocksAreIndependent : Obligations.EcbBlocksAreIndependent := by
  unfold Obligations.EcbBlocksAreIndependent
  intro s hbuf hlen
  refine ⟨_, exec_ecbenc_of_lt hlen, fun j hj => readBlock_ecbencBuf hbuf hj, fun i j hi hj heq n hn => ?_⟩
  have hblocks : readBlock s.bufEpoch s.buf i = readBlock s.bufEpoch s.buf j := by
    apply Vector.ext
    intro n hn
    rw [getElem_readBlock s hn, getElem_readBlock s hn, heq n hn]
  rw [← getElem_readBlock _ hn, ← getElem_readBlock _ hn]
  have hresult : readBlock s.bufEpoch (ecbencBuf s) i = readBlock s.bufEpoch (ecbencBuf s) j := by
    rw [readBlock_ecbencBuf hbuf hi, readBlock_ecbencBuf hbuf hj, hblocks]
  exact congrArg (fun x : Block => x[n]) hresult

end Sys2Proof.Machine
end

section
/-! ECBDEC (spec/44_ecb.md R198 to R202) and the round trip (R205). -/

namespace Sys2Proof.Machine

@[simp] theorem bufBytes_length (s : State) (n : Nat) : (s.bufBytes n).length = n := by simp [State.bufBytes]

theorem take_bufBytes (s : State) {k n : Nat} (h : k ≤ n) : (s.bufBytes n).take k = s.bufBytes k := by
  rw [State.bufBytes, ← List.map_take, List.take_range, Nat.min_eq_left h, State.bufBytes]

/-- Settles O36: each guard of R198 that fires comes before every write, and the guards before it do not fire. -/
theorem ecbdecEarlyErrors : Obligations.EcbdecEarlyErrors := by
  unfold Obligations.EcbdecEarlyErrors
  intro s
  refine ⟨fun hover => if_pos hover, fun hfit hmod => ?_, fun hzero => ?_⟩
  · exact (if_neg hfit.not_gt).trans (if_pos hmod)
  · have hlen : s.len.toNat = 0 := by rw [hzero]; rfl
    exact (if_neg (by omega)).trans ((if_neg (by omega)).trans (if_pos hlen))

/-- BUF as ECBDEC leaves it past its length checks (R198). -/
def ecbdecBuf (s : State) : Memory :=
  cryptBlocks (fun x => invCipher x (expand s.key)) s.bufEpoch (s.len.toNat / 16) s.buf

/-- LEN passes ECBDEC's three checks before decryption (R199, R200). -/
structure EcbdecLength (s : State) : Prop where
  pos : 0 < s.len.toNat
  fits : s.len.toNat ≤ s.cfg.bufSize
  blocks : s.len.toNat % 16 = 0

theorem ecbdecBuf_reads {s : State} (hbuf : s.bufOk) (hlen : EcbdecLength s) :
    (List.range s.len.toNat).map ((ecbdecBuf s).read s.bufEpoch) =
      mapBlocks (fun x => invCipher x (expand s.key)) (s.bufBytes s.len.toNat) := by
  obtain ⟨hwf, -⟩ := hbuf
  have hblocks : 16 * (s.len.toNat / 16) = s.len.toNat := by have := hlen.blocks; omega
  have hreads := cryptBlocks_reads (fun x => invCipher x (expand s.key)) s.bufEpoch (s.len.toNat / 16) hwf
  rwa [hblocks] at hreads

theorem ecbdecBuf_read_of_le {s : State} (hbuf : s.bufOk) {i : Nat} (hi : s.len.toNat ≤ i) :
    (ecbdecBuf s).read s.bufEpoch i = s.bufByte i := by
  obtain ⟨hwf, -⟩ := hbuf
  rw [ecbdecBuf, read_cryptBlocks _ _ _ hwf, if_neg (by omega), State.bufByte]

/-- The check over BUF is that of the decrypted byte sequence (R194, R201). -/
theorem paddingCheck_ecbdecBuf {s : State} (hbuf : s.bufOk) (hlen : EcbdecLength s) :
    paddingCheck s.len.toNat ((ecbdecBuf s).read s.bufEpoch) =
      pkcs7Check (mapBlocks (fun x => invCipher x (expand s.key)) (s.bufBytes s.len.toNat)) := by
  have hblock : 16 ≤ s.len.toNat := Nat.le_of_dvd hlen.pos (Nat.dvd_of_mod_eq_zero hlen.blocks)
  rw [paddingCheck_reads _ hblock, ecbdecBuf_reads hbuf hlen]

/-- Past the length checks ECBDEC has decrypted BUF, and its outcome is that of the padding check (R198). -/
theorem exec_ecbdec_of_length {s : State} (hlen : EcbdecLength s) :
    exec .ecbdec s = .next ((paddingCheck s.len.toNat ((ecbdecBuf s).read s.bufEpoch)).elim
      (raiseEcb .invalidPadding { deriveSchedule s with buf := ecbdecBuf s })
      fun p => completeOk { deriveSchedule s with
        buf := ecbdecBuf s, outlen := BitVec.ofNat 32 (s.len.toNat - p) }) := by
  obtain ⟨hpos, hfit, hmod⟩ := hlen
  have hexec : exec .ecbdec s = execEcbdec s := rfl
  rw [hexec, execEcbdec, if_neg hfit.not_gt, if_neg (not_not.mpr hmod), if_neg hpos.ne', ecbdecBuf]
  dsimp only
  split
  next hcheck => rw [hcheck]; rfl
  next p hcheck => rw [hcheck]; rfl

/-- Settles O37: BUF and `ecb_decrypt_bytes` decrypt the same bytes, so their padding checks agree. -/
theorem ecbdecDecryptsAndValidates : Obligations.EcbdecDecryptsAndValidates := by
  unfold Obligations.EcbdecDecryptsAndValidates
  intro s hbuf hpos hfit hmod
  have hlen : EcbdecLength s := ⟨hpos, hfit, hmod⟩
  have hexec := exec_ecbdec_of_length hlen
  have hreads := ecbdecBuf_reads hbuf hlen
  rw [paddingCheck_ecbdecBuf hbuf hlen] at hexec
  have hpos' : 0 < (s.bufBytes s.len.toNat).length := by rwa [bufBytes_length]
  have hmod' : (s.bufBytes s.len.toNat).length % 16 = 0 := by rwa [bufBytes_length]
  cases hcheck : pkcs7Check (mapBlocks (fun x => invCipher x (expand s.key)) (s.bufBytes s.len.toNat)) with
  | none =>
    rw [hcheck] at hexec
    refine ⟨ecbdecBuf s, _, hexec, rfl, hreads, fun i hi => ecbdecBuf_read_of_le hbuf hi, ?_⟩
    rw [ecbDecryptBytes_of_check_none hpos' hmod' hcheck]
    exact ⟨rfl, rfl, rfl, rfl⟩
  | some p =>
    rw [hcheck] at hexec
    refine ⟨ecbdecBuf s, _, hexec, rfl, hreads, fun i hi => ecbdecBuf_read_of_le hbuf hi, ?_⟩
    rw [ecbDecryptBytes_of_check_some hpos' hmod' hcheck, bufBytes_length, ← hreads]
    exact ⟨rfl, rfl, rfl, (take_bufBytes _ (Nat.sub_le _ p)).symm⟩

/-- On success ECBDEC recovers what `ecb_decrypt_bytes` answers. -/
theorem exec_ecbdec_of_ok {s : State} (hbuf : s.bufOk) (hlen : EcbdecLength s) {plain : List Byte} {n : Nat}
    (h : ecbDecryptBytes (s.bufBytes s.len.toNat) s.key = .ok (plain, n)) : ∃ u, exec .ecbdec s = .next u ∧
      u.err = false ∧ u.errcode = 0#8 ∧ u.outlen = BitVec.ofNat 32 n ∧ u.bufBytes n = plain := by
  obtain ⟨-, u, hexec, -, -, -, hresult⟩ := ecbdecDecryptsAndValidates s hbuf hlen.pos hlen.fits hlen.blocks
  rw [h] at hresult
  exact ⟨u, hexec, hresult⟩

theorem exec_bufOk {i : Instr} {s t : State} (hbuf : s.bufOk) (h : exec i s = .next t) : t.bufOk := by
  obtain ⟨st, sched, skv, gfP, outlen, buf, outcome, hexec, -, hkept⟩ := exec_cases i s
  cases hexec.symm.trans h
  exact hkept hbuf

/-- Settles O38: ECBENC leaves `ecb_encrypt_bytes` of the input for ECBDEC, whose outcome is that of `ecb_decrypt_bytes`. -/
theorem ecbRoundTrip : Obligations.EcbRoundTrip := by
  unfold Obligations.EcbRoundTrip
  refine ⟨ecbDecryptBytes_ecbEncryptBytes, fun s hbuf hlen => ?_⟩
  obtain ⟨hlo, -, hmod⟩ := padCount_range s.len.toNat
  obtain ⟨m, t, henc, ht, (houtlen : t.outlen.toNat = s.len.toNat + padCount s.len.toNat), hfit, hbytes, -⟩ :=
    ecbencEncryptsBuffer s hbuf hlen
  have hkey : t.key = s.key := by rw [ht]
  have hcfg : t.cfg = s.cfg := by rw [ht]
  have hlen' : EcbdecLength { t with len := t.outlen } := ⟨show 0 < t.outlen.toNat by omega,
    show t.outlen.toNat ≤ t.cfg.bufSize by rwa [hcfg], show t.outlen.toNat % 16 = 0 by rwa [houtlen]⟩
  have hplain : ecbDecryptBytes (t.bufBytes t.outlen.toNat) t.key = .ok (s.bufBytes s.len.toNat, s.len.toNat) := by
    rw [hbytes, hkey, ecbDecryptBytes_ecbEncryptBytes, bufBytes_length]
  have hbuf' : t.bufOk := exec_bufOk hbuf henc
  obtain ⟨u, hdec, herr, hcode, hout, hrecovered⟩ :=
    exec_ecbdec_of_ok (s := { t with len := t.outlen }) hbuf' hlen' hplain
  refine ⟨t, u, henc, by rwa [houtlen], by omega, hdec, herr, hcode, ?_, hrecovered⟩
  rw [hout, BitVec.ofNat_toNat, BitVec.setWidth_eq]

end Sys2Proof.Machine
end

section
/-! Acceptance, completion and the errors of the commands (R221, R225 to R228). -/

namespace Sys2Proof.Machine

/-- While a command is pending a write that is not ignored is dropped (R260). -/
theorem memWrite_regAddr_busy {s : State} (hbusy : s.busy = true) {r : Reg} (hp : r.present s.cfg = true)
    (hr : readOnly r = false) (hs : r ≠ .status) (v : Word) :
    memWrite s (regAddr r) v = (.okay, { s with viol := true }) := by
  simp [memWrite, decodeAddr_regAddr hp, hs, hr, hbusy]

/-- Settles O8: the store of CMD is `accept`, and CMD is no exception to the drop of busy writes. -/
theorem cmdWriteAccepts : Obligations.CmdWriteAccepts := by
  unfold Obligations.CmdWriteAccepts
  intro s v
  exact ⟨fun hidle => memWrite_regAddr_idle hidle (r := .cmd) rfl rfl v,
    fun hbusy => memWrite_regAddr_busy hbusy (r := .cmd) rfl rfl nofun v⟩

/-- Settles O5: the ENGINE's turn is struck off before the completion, and PEND is no part of the list of turns. -/
theorem engineStepRunsDecodedCommand : Obligations.EngineStepRunsDecodedCommand := by
  unfold Obligations.EngineStepRunsDecodedCommand
  intro s w i hp hd
  refine ⟨fun ts h => ?_, fun h => ?_⟩
  · have hengine : engineStep { s with turns := ts } = exec i { s with turns := ts } := engineStep_of_command hp hd
    exact (step_of_turns_cons h).trans hengine
  · exact (step_of_turns_nil_pending h hp).trans (engineStep_of_command hp hd)

/-- ERR says whether the outcome is an error, and no error has code 0 (R36, R220). -/
theorem finish_err_iff (s : State) (outcome : Option ErrorCode) :
    (finish s outcome).err = true ↔ (finish s outcome).errcode ≠ 0#8 := by
  cases outcome with
  | none => simp [finish]
  | some e => simp [finish, (errorCode_range e).1]

theorem exec_err_iff {i : Instr} {s t : State} (h : exec i s = .next t) : t.err = true ↔ t.errcode ≠ 0#8 := by
  obtain ⟨st, sched, skv, gfP, outlen, buf, outcome, rfl⟩ := exec_eq_finish h
  exact finish_err_iff _ outcome

/-- Settles O9: every command ends in a `finish`, before which it has not touched CMD or VIOL. -/
theorem everyCommandCompletes : Obligations.EveryCommandCompletes := by
  unfold Obligations.EveryCommandCompletes
  intro i s
  obtain ⟨t, h⟩ := exec_advances i s
  have herr := exec_err_iff h
  obtain ⟨st, sched, skv, gfP, outlen, buf, outcome, rfl⟩ := exec_eq_finish h
  exact ⟨_, h, rfl, rfl, rfl, herr, rfl, rfl⟩

/-- The code on each path of each command (R154, R196, R198 to R202). -/
theorem exec_errcode_mem {i : Instr} {s t : State} (h : exec i s = .next t) : t.errcode ∈ possibleCodes i := by
  cases i with
  | keyexp | gfmul | subbytes | invsubbytes | shiftrows | invshiftrows | mixcolumns | invmixcolumns
  | encblock | decblock =>
    cases h
    simp [possibleCodes]
  | addroundkey rnd =>
    simp only [exec, execAddroundkey] at h
    split_ifs at h
    · cases h; simp [possibleCodes, errorCode]
    · cases h; simp [possibleCodes, errorCode]
    · cases h; simp [possibleCodes]
  | ecbenc =>
    simp only [exec, execEcbenc] at h
    split_ifs at h
    · cases h; simp [possibleCodes, errorCode]
    · cases h; simp [possibleCodes]
  | ecbdec =>
    simp only [exec, execEcbdec] at h
    split_ifs at h
    · cases h; simp [possibleCodes, errorCode]
    · cases h; simp [possibleCodes, errorCode]
    · cases h; simp [possibleCodes, errorCode]
    · split at h
      · cases h; simp [possibleCodes, errorCode]
      · cases h; simp [possibleCodes]

/-- Settles O10: the codes path by path, and ERR with them. -/
theorem commandsRaiseOnlyTheirErrors : Obligations.CommandsRaiseOnlyTheirErrors := by
  unfold Obligations.CommandsRaiseOnlyTheirErrors
  intro i s
  obtain ⟨t, h⟩ := exec_advances i s
  exact ⟨t, h, exec_errcode_mem h, exec_err_iff h⟩

end Sys2Proof.Machine
end

section
/-! The busy window: HOST steps between acceptance and completion do not enter into the result (R226, R260). -/

namespace Sys2Proof.Machine

theorem memWrite_busy {s : State} (hbusy : s.busy = true) (a : Addr) (v : Word) :
    ∃ done viol, (memWrite s a v).2 = { s with done := done, viol := viol } := by
  obtain ⟨-, h⟩ | ⟨-, h⟩ | ⟨r, -, -, h⟩ | ⟨r, -, -, -, -, h⟩ | ⟨r, -, -, -, hidle, -⟩ := memWrite_cases s a v
  · exact ⟨s.done, s.viol, by rw [h]⟩
  · exact ⟨_, _, by rw [h, writeStatus]⟩
  · exact ⟨s.done, s.viol, by rw [h]⟩
  · exact ⟨s.done, true, by rw [h]⟩
  · simp [hbusy] at hidle

/-- Settles O57: a HOST step touches the core by a WR line alone, and a busy write reaches DONE and VIOL at most. -/
theorem pendingOperandsAreStable : Obligations.PendingOperandsAreStable := by
  unfold Obligations.PendingOperandsAreStable
  intro s hbusy
  obtain ⟨host, draws, bound, replies, h⟩ | ⟨a, v, rest, reply, -, h⟩ := hostStep_frame_or_write s
  · exact ⟨s.done, s.viol, host, draws, bound, replies, h⟩
  · obtain ⟨done, viol, hwrite⟩ := memWrite_busy (s := { s with host := rest }) hbusy a v
    rw [hwrite] at h
    exact ⟨done, viol, _, _, _, _, h⟩

/-- The completion sets DONE whatever it was (R226), so clearing it while the command is pending makes no difference. -/
theorem exec_done_irrelevant (i : Instr) (s : State) (done : Bool) : exec i { s with done := done } = exec i s := by
  cases i <;> rfl

/-- HOST steps in the busy window, by induction on their number: DONE apart, the core stays as it was. -/
theorem run_host_turns_busy (n : Nat) {s : State} {ts : List Turn} (hbusy : s.busy = true)
    (hturns : s.turns = List.replicate n .host ++ ts) :
    ∃ done a, a.turns = ts ∧
      ∀ k, Host.Core.run core (n + k) s = Host.Core.run core k (State.withSurroundings { s with done := done } a) := by
  induction n generalizing s with
  | zero => exact ⟨s.done, s, hturns, fun k => by rw [Nat.zero_add]; rfl⟩
  | succ n ih =>
    obtain ⟨done, viol, host, draws, bound, replies, hstable⟩ :=
      pendingOperandsAreStable { s with turns := List.replicate n .host ++ ts } hbusy
    have hstep := (step_of_turns_cons hturns).trans (congrArg Host.Outcome.next hstable)
    obtain ⟨done', a, ha, hrun⟩ := ih (s := { s with
      turns := List.replicate n .host ++ ts, done := done, viol := viol, host := host, draws := draws, bound := bound,
      replies := replies }) hbusy rfl
    refine ⟨done', a, ha, fun k => ?_⟩
    rw [show n + 1 + k = n + k + 1 by omega]
    exact (run_of_step hstep (n + k)).trans (hrun k)

/-- Settles O58: after the HOST's steps the core differs from that at acceptance in DONE at most, and a command reads
neither DONE nor what surrounds the core. -/
theorem resultIsThatAtAcceptance : Obligations.ResultIsThatAtAcceptance := by
  unfold Obligations.ResultIsThatAtAcceptance
  intro n s w i ts hbusy hp hd hturns
  obtain ⟨u, hu⟩ := exec_advances i s
  obtain ⟨done, a, ha, hrun⟩ := run_host_turns_busy n hbusy hturns
  have hengine := (engineStepRunsDecodedCommand (State.withSurroundings { s with done := done } a) w i hp hd).1 ts ha
  have hexec := exec_withSurroundings ((exec_done_irrelevant i s done).trans hu) { a with turns := ts }
  refine ⟨_, u, ?_, hu, agreeOnCore_withSurroundings u { a with turns := ts }⟩
  calc Host.Core.run core (n + 1) s
      = Host.Core.run core 1 (State.withSurroundings { s with done := done } a) := hrun 1
    _ = Host.Core.run core 0 (u.withSurroundings { a with turns := ts }) := run_of_step (hengine.trans hexec) 0
    _ = .next (u.withSurroundings { a with turns := ts }) := rfl

end Sys2Proof.Machine
end

section
/-! A pending command ends (R252, R266): every step but the HOST's own turn ends it, and the HOST's turns run out. -/

namespace Sys2Proof.Machine

@[simp] theorem memWrite_turns (s : State) (a : Addr) (v : Word) : (memWrite s a v).2.turns = s.turns := by
  obtain ⟨-, h⟩ | ⟨-, h⟩ | ⟨r, -, -, h⟩ | ⟨r, -, -, -, -, h⟩ | ⟨r, -, -, -, -, h⟩ := memWrite_cases s a v
  · rw [h]
  · rw [h, writeStatus_turns]
  · rw [h]
  · rw [h]
  · rw [h, writeReg_turns]

@[simp] theorem hostStep_turns (s : State) : (hostStep s).turns = s.turns := by
  obtain ⟨host, draws, bound, replies, h⟩ | ⟨a, v, rest, reply, -, h⟩ := hostStep_frame_or_write s
  · rw [h]
  · rw [h, record_turns, memWrite_turns]

/-- While a command is pending, the turn is the next of the list, and the ENGINE's where the list is empty (log entry 1). -/
theorem nextTurn_of_pending {s : State} (hp : s.pend ≠ none) : nextTurn s = s.turns.head?.getD .engine := by
  cases hturns : s.turns with
  | nil => simp [nextTurn, hturns, Option.isSome_iff_ne_none.mpr hp]
  | cons turn ts => simp [nextTurn, hturns]

theorem turns_of_nextTurn_host {s : State} (hp : s.pend ≠ none) (h : nextTurn s = .host) :
    s.turns = .host :: s.turns.tail := by
  rw [nextTurn_of_pending hp] at h
  cases hturns : s.turns with
  | nil => simp [hturns] at h
  | cons turn ts =>
    obtain rfl : turn = .host := by simpa [hturns] using h
    rfl

/-- A step ends the pending command, or uses up a turn of the HOST. -/
theorem step_pend_none_or_host_turn {s t : State} (hp : s.pend ≠ none) (h : step s = .next t) :
    t.pend = none ∨ s.turns = .host :: t.turns := by
  obtain ⟨hn, rfl⟩ | ⟨-, rfl⟩ | ⟨-, hnone, -⟩ | ⟨w, i, -, -, -, hexec⟩ | ⟨w, e, -, -, -, rfl⟩ := step_cases h
  · right
    rw [hostStep_turns, dropTurn_turns]
    exact turns_of_nextTurn_host hp hn
  · exact .inl rfl
  · exact absurd hnone hp
  · obtain ⟨st, sched, skv, gfP, outlen, buf, outcome, rfl⟩ := exec_eq_finish hexec
    exact .inl rfl
  · exact .inl rfl

/-- By recursion on the list of turns, one step at a time. -/
theorem exists_run_pend_none (s : State) :
    ∃ k t, k ≤ s.turns.length + 1 ∧ Host.Core.run core k s = .next t ∧ t.pend = none := by
  by_cases hp : s.pend = none
  · exact ⟨0, s, Nat.zero_le _, rfl, hp⟩
  · obtain ⟨t, hstep⟩ := everyStepAdvances s
    obtain hended | hturns := step_pend_none_or_host_turn hp hstep
    · exact ⟨1, t, Nat.le_add_left _ _, run_of_step hstep 0, hended⟩
    · have hlength : s.turns.length = t.turns.length + 1 := by rw [hturns, List.length_cons]
      obtain ⟨k, u, hk, hrun, hu⟩ := exists_run_pend_none t
      exact ⟨k + 1, u, by omega, (run_of_step hstep k).trans hrun, hu⟩
termination_by s.turns.length

/-- Where no RESET comes, some number of HOST turns stands before the ENGINE's turn or the end of the list. -/
theorem exists_host_turns_of_reset_not_mem {ts : List Turn} (h : Turn.reset ∉ ts) :
    ∃ n ts', n ≤ ts.length ∧ ts = List.replicate n .host ++ ts' ∧ ts'.head?.getD .engine = .engine := by
  induction ts with
  | nil => exact ⟨0, [], le_rfl, rfl, rfl⟩
  | cons turn ts ih =>
    cases turn with
    | host =>
      obtain ⟨n, ts', hn, rfl, hend⟩ := ih (List.not_mem_of_not_mem_cons h)
      exact ⟨n + 1, ts', Nat.succ_le_succ hn, rfl, hend⟩
    | engine => exact ⟨0, .engine :: ts, Nat.zero_le _, rfl, rfl⟩
    | reset => exact absurd List.mem_cons_self h

theorem step_of_nextTurn_engine {s : State} (h : nextTurn s = .engine) : step s = engineStep (dropTurn s) := by
  rw [step, interleave, h, takeTurn]

/-- The ENGINE's step completes the pending word (R226), and sees neither DONE nor what surrounds the core. -/
theorem engineStep_completes {s : State} {w : Word} (hp : s.pend = some w) :
    ∃ u, engineStep s = .next u ∧ u.busy = false ∧ u.done = true ∧ u.pend = none ∧
      ∀ done a, engineStep (State.withSurroundings { s with done := done } a) = .next (u.withSurroundings a) := by
  cases hd : decodeWord w with
  | ok i =>
    obtain ⟨u, hu, hbusy, hdone, hpend, -⟩ := everyCommandCompletes i s
    refine ⟨u, (engineStep_of_command hp hd).trans hu, hbusy, hdone, hpend, fun done a => ?_⟩
    have hexec := exec_withSurroundings ((exec_done_irrelevant i s done).trans hu) a
    exact (engineStep_of_command (s := State.withSurroundings { s with done := done } a) hp hd).trans hexec
  | error e =>
    exact ⟨_, engineStep_of_illegal hp hd, rfl, rfl, rfl, fun done a => engineStep_of_illegal hp hd⟩

/-- Settles O59: the turns run out; and without a RESET they are HOST turns, which leave the pending command as it was
accepted, up to the ENGINE's. -/
theorem pendingCommandEnds : Obligations.PendingCommandEnds := by
  unfold Obligations.PendingCommandEnds
  refine ⟨fun s _ => exists_run_pend_none s, fun s w hbusy hp hreset => ?_⟩
  obtain ⟨n, ts, hn, hturns, hend⟩ := exists_host_turns_of_reset_not_mem hreset
  obtain ⟨done, a, ha, hrun⟩ := run_host_turns_busy n hbusy hturns
  obtain ⟨u, hu, hubusy, hudone, hupend, hsame⟩ := engineStep_completes hp
  have hturn : nextTurn (State.withSurroundings { s with done := done } a) = .engine :=
    (nextTurn_of_pending (by simp [State.withSurroundings, hp])).trans (ha ▸ hend)
  have hstep := (step_of_nextTurn_engine hturn).trans (hsame done (dropTurn a))
  have hcore := agreeOnCore_withSurroundings u (dropTurn a)
  refine ⟨n + 1, _, Nat.succ_le_succ hn, (hrun 1).trans (run_of_step hstep 0), hubusy, hudone, hupend, ?_, ?_⟩
  · exact fun i hd => ⟨u, (engineStep_of_command hp hd).symm.trans hu, hcore⟩
  · intro e hd
    cases hu.symm.trans (engineStep_of_illegal hp hd)
    exact hcore

end Sys2Proof.Machine
end

section
/-! The bus while BUSY = 1 (R260, R261). -/

namespace Sys2Proof.Machine

/-- The destination set of a word that decodes is its command's (R97). -/
theorem pendingDestination_of_command {w : Word} {i : Instr} (h : decodeWord w = .ok i) (r : Reg) :
    pendingDestination (some w) r = destination i r := by
  simp only [pendingDestination, h]

/-- An illegal word has no destination set (R97). -/
theorem pendingDestination_of_illegal {w : Word} {e : Illegal} (h : decodeWord w = .error e) (r : Reg) :
    pendingDestination (some w) r = false := by
  simp only [pendingDestination, h]

/-- STATUS, CMD, ERRCODE and the operand registers LEN, GFOP and KEYk are in no destination set (R97). -/
theorem destination_eq_false (i : Instr) {r : Reg}
    (hr : r = .status ∨ r = .cmd ∨ r = .errcode ∨ r = .len ∨ r = .gfop ∨ ∃ k, r = .key k) : destination i r = false := by
  obtain rfl | rfl | rfl | rfl | rfl | ⟨k, rfl⟩ := hr <;> cases i <;> rfl

theorem memRead_draw {s : State} {a : Addr} {r : Reg} (hbusy : s.busy = true) (hdecode : decodeAddr s.cfg a = some r)
    (hd : pendingDestination s.pend r = true) :
    memRead s a = (Config.busyDraw s.draws, .okay, { s with draws := s.draws + 1 }) := by
  simp [memRead, hdecode, hbusy, hd]

theorem memRead_of_not_destination {s : State} {a : Addr} {r : Reg} (hdecode : decodeAddr s.cfg a = some r)
    (hd : pendingDestination s.pend r = false) : memRead s a = (readReg s r, .okay, s) := by
  simp [memRead, hdecode, hd]

/-- Settles O43: a busy read draws exactly where the register is in the pending word's destination set. -/
theorem busyReadsDrawOrRead : Obligations.BusyReadsDrawOrRead := by
  unfold Obligations.BusyReadsDrawOrRead
  intro s a r w hbusy hp hdecode
  have hcommand : ∀ i, decodeWord w = .ok i → pendingDestination s.pend r = destination i r :=
    fun i hd => hp ▸ pendingDestination_of_command hd r
  have hillegal : ∀ e, decodeWord w = .error e → pendingDestination s.pend r = false :=
    fun e hd => hp ▸ pendingDestination_of_illegal hd r
  refine ⟨fun i hd hr => memRead_draw hbusy hdecode ((hcommand i hd).trans hr),
    fun i hd hr => memRead_of_not_destination hdecode ((hcommand i hd).trans hr),
    fun e hd => memRead_of_not_destination hdecode (hillegal e hd),
    fun hr => memRead_of_not_destination hdecode ?_⟩
  cases hd : decodeWord w with
  | ok i => exact (hcommand i hd).trans (destination_eq_false i hr)
  | error e => exact hillegal e hd

/-- Settles O45: STATUS takes its write, a read-only register ignores it, and every other register drops it. -/
theorem busyWritesAreDropped : Obligations.BusyWritesAreDropped := by
  unfold Obligations.BusyWritesAreDropped
  refine ⟨fun s a v _ hdecode => by simp [memWrite, hdecode], fun s a r v hbusy hdecode => ?_⟩
  obtain ⟨hpresent, rfl⟩ := decodeAddr_some hdecode
  refine ⟨fun hr => ?_, fun hr => memWrite_readOnly s v hpresent ?_, fun hr => hr ▸ memWrite_status s v⟩
  · have hwritable : readOnly r = false ∧ r ≠ .status := by
      obtain rfl | rfl | rfl | ⟨k, rfl⟩ | ⟨k, rfl⟩ | ⟨k, rfl⟩ := hr <;> exact ⟨rfl, nofun⟩
    obtain ⟨hro, hstatus⟩ := hwritable
    exact memWrite_regAddr_busy hbusy hpresent hro hstatus v
  · obtain rfl | rfl | rfl | rfl | rfl | ⟨k, rfl⟩ := hr <;> rfl

end Sys2Proof.Machine
end

section
/-! The values RESET leaves (R251, R252). -/

namespace Sys2Proof.Machine

/-- The values hold of the reset state whatever the parameters, the epoch of BUF and everything around the core are:
here those of `a`. -/
theorem reset_resetValues_around (a : State) :
    ResetValues { State.reset with
      cfg := a.cfg, bufEpoch := a.bufEpoch, draws := a.draws, host := a.host, turns := a.turns, bound := a.bound,
      replies := a.replies } := by
  have hstatus : statusWord State.reset = 0#32 := by decide
  exact ⟨fun i => Vector.getElem_replicate i.isLt, fun i => Vector.getElem_replicate i.isLt,
    fun i => Vector.getElem_replicate i.isLt, rfl, rfl, rfl, rfl, rfl, rfl, rfl, hstatus, rfl, rfl, fun _ => rfl, rfl, rfl⟩

theorem resetEvent_resetValues (s : State) : ResetValues (resetEvent s) :=
  reset_resetValues_around { s with bufEpoch := s.bufEpoch + 1 }

/-- Settles O51: RESET's turn is struck off, and the event leaves the reset state but for what stands around the core. -/
theorem resetLeavesResetValues : Obligations.ResetLeavesResetValues := by
  unfold Obligations.ResetLeavesResetValues
  exact ⟨reset_resetValues_around State.reset, fun s ts hturns =>
    ⟨_, step_of_turns_cons hturns, resetEvent_resetValues _, rfl, rfl, rfl, rfl, rfl, rfl⟩⟩

end Sys2Proof.Machine
end
